-- ==== Sys2Proof/Word.lean ====
section
/-! DEFINITION. The bit widths every other file uses: the 32-bit arithmetic word (R7), the byte and
the 8-bit sensor register address (R6, R60), and the eight bytes of one measurement burst (R43, R86). -/

namespace Sys2Proof

/-- R7: "Every intermediate of the three compensation functions is one 32-bit word." It is read as
`s32` by `BitVec.toInt` and as `u32` by `BitVec.toNat`. -/
abbrev Word := BitVec 32

/-- R6: a byte is 8 bits and an unsigned number unless a rule says otherwise. -/
abbrev Byte := BitVec 8

/-- R60: a sensor register address is 8 bits wide. -/
abbrev Addr := BitVec 8

/-- R43, R86: the eight bytes of one burst, in bus order from `A_MEAS`. -/
structure Burst where
  b0 : Byte
  b1 : Byte
  b2 : Byte
  b3 : Byte
  b4 : Byte
  b5 : Byte
  b6 : Byte
  b7 : Byte
  deriving DecidableEq, Repr, Inhabited

end Sys2Proof
end

