-- ==== Sys2Proof/Config.lean ====
section
/-! DEFINITION. The parameters of R5, with the value this hardware takes, and the free values: the
answers the environment gives to its reads (R67, U6), which nothing constrains. -/

namespace Sys2Proof

/-- R61: what the environment does with one read transaction: it delivers, it fails ("a Fail
delivers no bytes"), or it never answers (R209, U4). -/
inductive Answer (α : Type) where
  | ok (a : α)
  | fail
  | silent
  deriving DecidableEq, Repr, Inhabited

/-- R63, `DEV_ADDR`: the 7-bit bus device address of every transaction. -/
def Config.devAddr : BitVec 7 := 0x76#7

/-- R5, `A_MEAS`: the pressure MSB register, where the burst starts. -/
def Config.measAddr : Addr := 0xF7#8

/-- R86, `BURST_LEN`. -/
def Config.burstLen : Nat := 8

/-- R62, `A_TP`: the temperature and pressure trim range. -/
def Config.tpAddrs : List Addr :=
  [0x88#8, 0x89#8, 0x8A#8, 0x8B#8, 0x8C#8, 0x8D#8, 0x8E#8, 0x8F#8,
   0x90#8, 0x91#8, 0x92#8, 0x93#8, 0x94#8, 0x95#8, 0x96#8, 0x97#8,
   0x98#8, 0x99#8, 0x9A#8, 0x9B#8, 0x9C#8, 0x9D#8, 0x9E#8, 0x9F#8]

/-- R62, `A_H1` and `A_H`: the humidity trims. -/
def Config.humAddrs : List Addr :=
  [0xA1#8, 0xE1#8, 0xE2#8, 0xE3#8, 0xE4#8, 0xE5#8, 0xE6#8, 0xE7#8]

/-- R69, `CAL_READ_ORDER`: the 32 calibration addresses in the order they are read. -/
def Config.calAddrs : List Addr := Config.tpAddrs ++ Config.humAddrs

/-- R150, `HUM_CLAMP_MAX`: the upper bound of the humidity clamp (the lower bound is 0). -/
def Config.humClampMax : Word := 419430400#32

/-- R150, `HUM_OUT_SHIFT`: the last right shift of the humidity path. -/
def Config.humOutShift : Nat := 12

/-- Free value (R67, U6; log 3): the answer to the `n`-th unscripted single-byte read, its outcome
and its byte. -/
opaque Config.readAnswer : Nat → Answer Byte

/-- Free value (R67, U6; log 3): the answer to the `n`-th unscripted burst, its outcome and its eight
bytes. -/
opaque Config.burstAnswer : Nat → Answer Burst

end Sys2Proof
end

