-- ==== Sys2Proof/Syntax.lean ====
section
/-! DEFINITION. The operation set KBCE-1: the six host commands (R88) and the nine
micro-operations (R91), one constructor per row of spec/opcode_table.json, and the lines of a host
program with its two pseudo-instructions (R94, R95). -/

namespace Sys2Proof

/-- R88 and R91. No operation has an operand field: the operands are registers and bus bytes. -/
inductive Instr where
  | loadcal
  | readcomp
  | gett
  | getp
  | geth
  | getstat
  | calfetch
  | caldec
  | calcommit
  | burstrd
  | rawdec
  | compt
  | compp
  | comph
  | publish
  deriving DecidableEq, Repr

/-- The mnemonic of R88 and R91. -/
def Instr.mnemonic : Instr → String
  | .loadcal => "LOADCAL"
  | .readcomp => "READCOMP"
  | .gett => "GETT"
  | .getp => "GETP"
  | .geth => "GETH"
  | .getstat => "GETSTAT"
  | .calfetch => "CALFETCH"
  | .caldec => "CALDEC"
  | .calcommit => "CALCOMMIT"
  | .burstrd => "BURSTRD"
  | .rawdec => "RAWDEC"
  | .compt => "COMPT"
  | .compp => "COMPP"
  | .comph => "COMPH"
  | .publish => "PUBLISH"

/-- R94, R95: a line of a host program is a command or one of the two pseudo-instructions. -/
inductive Line where
  | cmd (i : Instr)
  | cycle
  | init
  deriving DecidableEq, Repr

/-- R95: `CYCLE` is `READCOMP`, `GETT`, `GETP`, `GETH`; `INIT` is `LOADCAL`. -/
def Line.expand : Line → List Instr
  | .cmd i => [i]
  | .cycle => [.readcomp, .gett, .getp, .geth]
  | .init => [.loadcal]

/-- R94: the text of a line up to the comment, without the spaces around it. -/
def lineWord (cs : List Char) : List Char :=
  let body := (cs.takeWhile (fun c => c != ';')).dropWhile (fun c => c == ' ')
  (body.reverse.dropWhile (fun c => c == ' ')).reverse

/-- R94, R95: the words that may stand on a line. -/
def lineNames : List (String × Line) :=
  [("LOADCAL", .cmd .loadcal), ("READCOMP", .cmd .readcomp), ("GETT", .cmd .gett), ("GETP", .cmd .getp),
   ("GETH", .cmd .geth), ("GETSTAT", .cmd .getstat), ("CYCLE", .cycle), ("INIT", .init)]

/-- The line that a word names in a list of names. -/
def nameLookup : List (String × Line) → List Char → Option Line
  | [], _ => none
  | (n, l) :: rest, w => if n.toList = w then some l else nameLookup rest w

/-- R94: one command per line, upper case, no operands, an optional comment after `;`. -/
def parseLine (cs : List Char) : Option Line := nameLookup lineNames (lineWord cs)

end Sys2Proof
end

