-- ==== Sys2Proof/Machine/State.lean ====
section
/-! DEFINITION. The state of the block (10_state.md, R20), its value after reset (R59, R201), and the
reasons a step can stop. Every field is plain data.

"Each data register either holds a value or holds no value" (R20): a data register is an `Option`,
and `none` is the spec's own state "holds no value", which R59 gives as the reset state (log 1). -/

namespace Sys2Proof.Machine

/-- R21: the five session states. Codes 5 to 7 do not exist (U8). -/
inductive SessionState where
  | uninitialized
  | calibrationLoaded
  | ready
  | readRaw
  | compensate
  deriving DecidableEq, Repr

/-- R180: the six ways a command ends other than `OK`. -/
inductive Cause where
  | unavailable
  | ioFailure
  | notReady
  | alreadyLoaded
  | noReading
  | illegalCmd
  deriving DecidableEq, Repr

/-- R89: a response status. Codes 7 to 15 are never produced, so they do not exist here (U8). -/
inductive Status where
  | ok
  | ended (c : Cause)
  deriving DecidableEq, Repr

/-- R89: a response, of the type "status, or value": a non-OK response carries no data. -/
inductive Resp where
  | ok (data : Word)
  | ended (c : Cause)
  deriving DecidableEq, Repr

/-- R23: the names of the 18 coefficient registers. -/
inductive Coef where
  | t1 | t2 | t3
  | p1 | p2 | p3 | p4 | p5 | p6 | p7 | p8 | p9
  | h1 | h2 | h3 | h4 | h5 | h6
  deriving DecidableEq, Repr

/-- R24 to R41: the bits of the 18 coefficient registers, each at its own width. R110: they are
written all at once, so they hold values together or not at all (log 2). -/
structure Coeffs where
  t1 : BitVec 16
  t2 : BitVec 16
  t3 : BitVec 16
  p1 : BitVec 16
  p2 : BitVec 16
  p3 : BitVec 16
  p4 : BitVec 16
  p5 : BitVec 16
  p6 : BitVec 16
  p7 : BitVec 16
  p8 : BitVec 16
  p9 : BitVec 16
  h1 : BitVec 8
  h2 : BitVec 16
  h3 : BitVec 8
  h4 : BitVec 16
  h5 : BitVec 16
  h6 : BitVec 8
  deriving DecidableEq, Repr, Inhabited

/-- R42: `CALBUF`, as (address, byte) pairs with strictly rising addresses. An address that is not
listed holds no value. -/
abbrev Memory := List Host.Cell

/-- R140: the result of `COMPP`, "pressurePa | Unavailable" (R182: a value, not an exception). -/
inductive Pressure where
  | pascals (p : Word)
  | unavailable
  deriving DecidableEq, Repr

/-- R101, R120: the result of the two micro-operations that use the bus. -/
inductive BusResult where
  | ok
  | fail
  deriving DecidableEq, Repr

/-- One transaction that reached the bus (R61, R63): the device, the first register address, the
number of bytes, and whether it succeeded. -/
structure Transaction where
  dev : BitVec 7
  addr : Addr
  len : Nat
  ok : Bool
  deriving DecidableEq, Repr

/-- R92: the two host commands that have a microprogram. -/
inductive SeqCmd where
  | loadcal
  | readcomp
  deriving DecidableEq, Repr

/-- R22(b): a command in progress and `UPC`, the index into its microprogram. -/
structure Active where
  cmd : SeqCmd
  upc : Nat
  deriving DecidableEq, Repr

/-- What the outside does at the engine's port: the host issues a command byte (R88), or reset
arrives (R200). -/
inductive PortEvent where
  | command (b : Byte)
  | reset
  deriving DecidableEq, Repr

/-- The registers, and the values handed on inside a command, that can hold no value (R20). -/
inductive DataReg where
  | coefficients
  | calbuf
  | burst
  | rawP
  | rawT
  | rawH
  | tFine
  | tempCenti
  | pressPa
  | humQ10
  | result
  | stg
  | tc
  | pp
  | hh
  deriving DecidableEq, Repr

/-- Why a step stops with a fault. -/
inductive Fault where
  /-- R20 ("A model should make such a read a fault, never a number"), R13, R19, U5: a register that holds
  no value was read. Raised by every meaning that reads a data register or a handed-on value. Safe: the
  spec asks for a fault here, and no state that the invariant allows gets here. -/
  | readOfNoValue (r : DataReg)
  /-- R209, U4: a `MemRead` is never answered, so the command never completes and there is no next
  state. Raised by `CALFETCH`, `BURSTRD` and the commands that run them. Safe: the run stops. -/
  | unansweredRead
  /-- R91, U8: the sequencer would run something that is no micro-operation of its microprogram.
  Raised by the sequencer. Safe: no state that the invariant allows gets here. -/
  | noMicroOperation
  deriving DecidableEq, Repr

/-- Why a step is refused. -/
inductive Refusal where
  /-- An instruction that has no meaning in this model yet. Raised by no arm: every row of the table has
  its meaning. Safe. -/
  | notModelled (mnemonic : String)
  deriving DecidableEq, Repr

/-- The state. The first group is the architectural state of R20 and `UPC` (R22); then come the
values that one micro-operation hands to the next inside a command (R17, log 4), the command port
and the responses (R88, R89, R168), and the environment with its record of the bus (R16, R67). -/
structure State where
  /-- R21 -/
  ss : SessionState
  /-- R23 to R41: `T1` .. `H6` -/
  coeffs : Option Coeffs
  /-- R42 -/
  calbuf : Memory
  /-- R43 -/
  burst : Option Burst
  /-- R44 -/
  rawP : Option (BitVec 20)
  /-- R45 -/
  rawT : Option (BitVec 20)
  /-- R46 -/
  rawH : Option (BitVec 16)
  /-- R47 -/
  tFine : Option Word
  /-- R49 -/
  tempCenti : Option Word
  /-- R50 -/
  pressPa : Option Word
  /-- R51 -/
  humQ10 : Option Word
  /-- R53 -/
  calValid : Bool
  /-- R54 -/
  rdValid : Bool
  /-- R55 -/
  pUnavail : Bool
  /-- R56 -/
  ioFail : Bool
  /-- R57 -/
  refused : Bool
  /-- R58 -/
  lastStatus : Status
  /-- R22(b): the command in progress and `UPC`; `none` between commands -/
  active : Option Active
  /-- R101, R120: `r`, the result of the last bus micro-operation of this command -/
  result : Option BusResult
  /-- R102: `stg`, the staged coefficients -/
  stg : Option Coeffs
  /-- R130: `temp_centi`, handed to `PUBLISH` -/
  tc : Option Word
  /-- R140: `press_pa` or `Unavailable`, handed to `PUBLISH` -/
  pp : Option Pressure
  /-- R150: `hum_q10`, handed to `PUBLISH` -/
  hh : Option Word
  /-- R168: what will still arrive at the port, in order -/
  port : List PortEvent
  /-- R89, R168: the responses given, newest first -/
  responses : List Resp
  /-- R67: the environment's answers to the next single-byte reads (log 3) -/
  reads : List (Answer Byte)
  /-- R67: the environment's answers to the next bursts (log 3) -/
  bursts : List (Answer Burst)
  /-- the number of unscripted answers taken so far, the argument of the free values (log 3) -/
  draws : Nat
  /-- R68: the transactions that reached the bus, newest first (log 5) -/
  busLog : List Transaction
  deriving DecidableEq, Repr

/-- R59, R201: the state after reset. Nothing is at the port, no response has been given, and the
environment has no scripted answer. -/
def State.reset : State where
  ss := .uninitialized
  coeffs := none
  calbuf := []
  burst := none
  rawP := none
  rawT := none
  rawH := none
  tFine := none
  tempCenti := none
  pressPa := none
  humQ10 := none
  calValid := false
  rdValid := false
  pUnavail := false
  ioFail := false
  refused := false
  lastStatus := .ok
  active := none
  result := none
  stg := none
  tc := none
  pp := none
  hh := none
  port := []
  responses := []
  reads := []
  bursts := []
  draws := 0
  busLog := []

/-- The outcome of a step or of a meaning. -/
abbrev Out := Host.Outcome State Fault Refusal

end Sys2Proof.Machine
end

