-- ==== Sys2Proof/Machine/Operands.lean ====
section
/-! DEFINITION. The operand forms: the normalised read of a coefficient (R13, R23) and the
zero-extended raw values (R122). -/

namespace Sys2Proof.Machine

/-- `zext_32` (R6). -/
def zext32 (n : Nat) (v : BitVec n) : Word := v.setWidth 32

/-- `sext_32` (R6). -/
def sext32 (n : Nat) (v : BitVec n) : Word := v.signExtend 32

/-- R23: the read `CAL[k]` "delivers the stored value normalised": zero-extended if the coefficient is
unsigned, sign-extended if it is signed; which is which is said by R24 to R41. -/
def Coeffs.get (c : Coeffs) : Coef → Word
  | .t1 => zext32 16 c.t1
  | .t2 => sext32 16 c.t2
  | .t3 => sext32 16 c.t3
  | .p1 => zext32 16 c.p1
  | .p2 => sext32 16 c.p2
  | .p3 => sext32 16 c.p3
  | .p4 => sext32 16 c.p4
  | .p5 => sext32 16 c.p5
  | .p6 => sext32 16 c.p6
  | .p7 => sext32 16 c.p7
  | .p8 => sext32 16 c.p8
  | .p9 => sext32 16 c.p9
  | .h1 => zext32 8 c.h1
  | .h2 => sext32 16 c.h2
  | .h3 => zext32 8 c.h3
  | .h4 => zext32 16 c.h4
  | .h5 => zext32 16 c.h5
  | .h6 => sext32 8 c.h6

end Sys2Proof.Machine
end

