-- ==== Sys2Proof/Machine/Flags.lean ====
section
/-! DEFINITION. The flags and codes: session state codes (R21), status codes and the response format
(R89), the flag that each non-OK ending records (R180), and the `STATUS` view (R52). -/

namespace Sys2Proof.Machine

/-- R21: the 3-bit code of a session state. -/
def SessionState.code : SessionState → BitVec 3
  | .uninitialized => 0#3
  | .calibrationLoaded => 1#3
  | .ready => 2#3
  | .readRaw => 3#3
  | .compensate => 4#3

/-- R89, R180: the status code of a non-OK ending. -/
def Cause.code : Cause → BitVec 4
  | .unavailable => 1#4
  | .ioFailure => 2#4
  | .notReady => 3#4
  | .alreadyLoaded => 4#4
  | .noReading => 5#4
  | .illegalCmd => 6#4

/-- R89: the status code; 0 is `OK`. -/
def Status.code : Status → BitVec 4
  | .ok => 0#4
  | .ended c => c.code

/-- R89: `RESP = (status, data)`, 36 bits; the data of a non-OK response is 0. -/
def Resp.encode : Resp → BitVec 36
  | .ok d => 0#4 ++ d
  | .ended c => c.code ++ 0#32

/-- R180, column "Recorded": the flag that a non-OK ending sets. -/
def State.record (c : Cause) (s : State) : State :=
  match c with
  | .unavailable => { s with pUnavail := true }
  | .ioFailure => { s with ioFail := true }
  | .notReady => { s with refused := true }
  | .alreadyLoaded => { s with refused := true }
  | .noReading => { s with refused := true }
  | .illegalCmd => { s with refused := true }

/-- R52: the `STATUS` view. Bits 31:12 read as 0. -/
def State.statusWord (s : State) : Word :=
  0#20 ++ s.lastStatus.code ++ BitVec.ofBool s.refused ++ BitVec.ofBool s.ioFail ++ BitVec.ofBool s.pUnavail
    ++ BitVec.ofBool s.rdValid ++ BitVec.ofBool s.calValid ++ s.ss.code

end Sys2Proof.Machine
end

