-- ==== Sys2Proof/Machine/Ops.lean ====
section
/-! DEFINITION. The named operations over the state: `CALBUF` (R42), the bus (R61), ending a command
(R15, R180, R190: the block's counterpart of taking an exception, and the return from it is the next
command, R191), and reset (R200). -/

namespace Sys2Proof.Machine

/-- The canonical form of `CALBUF`: strictly rising addresses. An unlisted address holds no value, so
no entry equals it. -/
abbrev Memory.wf (m : Memory) : Prop := m.Pairwise (fun x y => x.1 < y.1)

/-- Reads one byte; `none` where nothing has been written (R20). -/
def Memory.read : Memory → Nat → Option Byte
  | [], _ => none
  | (k, v) :: rest, a => if k = a then some v else Memory.read rest a

/-- Writes one byte, keeping the canonical form. -/
def Memory.write : Memory → Nat → Byte → Memory
  | [], a, b => [(a, b)]
  | (k, v) :: rest, a, b =>
    if a < k then (a, b) :: (k, v) :: rest
    else if a = k then (a, b) :: rest
    else (k, v) :: Memory.write rest a b

/-- Runs `f` on the next state, and stops where the first part stopped. -/
def andThen (o : Out) (f : State → Out) : Out :=
  match o with
  | .next s => f s
  | .fault r => .fault r
  | .refused r => .refused r

/-- Reads a data register, or stops with R20's fault if it holds no value. -/
def readReg {α : Type} (r : DataReg) (v : Option α) (f : α → Out) : Out :=
  match v with
  | some a => f a
  | none => .fault (.readOfNoValue r)

/-- The next answer to a single-byte read: the scripted one, or a free answer after the script (R67). -/
def State.nextRead (s : State) : Answer Byte :=
  match s.reads with
  | [] => Config.readAnswer s.draws
  | a :: _ => a

/-- The next answer to a burst (R67). -/
def State.nextBurst (s : State) : Answer Burst :=
  match s.bursts with
  | [] => Config.burstAnswer s.draws
  | a :: _ => a

/-- R61, R63: a single-byte transaction has reached the bus and been answered. -/
def State.takeRead (s : State) (a : Addr) (ok : Bool) : State :=
  { s with
    reads := s.reads.tail
    draws := if s.reads.isEmpty then s.draws + 1 else s.draws
    busLog := ⟨Config.devAddr, a, 1, ok⟩ :: s.busLog }

/-- R61, R63: a burst transaction has reached the bus and been answered. -/
def State.takeBurst (s : State) (ok : Bool) : State :=
  { s with
    bursts := s.bursts.tail
    draws := if s.bursts.isEmpty then s.draws + 1 else s.draws
    busLog := ⟨Config.devAddr, Config.measAddr, Config.burstLen, ok⟩ :: s.busLog }

/-- R15, R89: ends a command with status `OK` and data, and records the status (R58). -/
def State.succeed (d : Word) (s : State) : State :=
  { s with lastStatus := .ok, responses := .ok d :: s.responses }

/-- R180, R190: ends a command other than `OK`. "Entry is the few writes listed in rule R180 followed by
the response": one flag, `LAST_STATUS`, the response, and nothing else. -/
def State.raise (c : Cause) (s : State) : State :=
  let t := s.record c
  { t with lastStatus := .ended c, responses := .ended c :: t.responses }

/-- R22(b): a command is accepted and `UPC` is 0. R162: `READCOMP` enters `ReadRaw`. -/
def State.accept (c : SeqCmd) (s : State) : State :=
  { s with
    active := some ⟨c, 0⟩
    ss := match c with
      | .loadcal => s.ss
      | .readcomp => .readRaw }

/-- R22(b): `UPC` advances by 1. -/
def State.advance (s : State) : State :=
  { s with active := s.active.map (fun a => { a with upc := a.upc + 1 }) }

/-- R22(b), R17: the command is over: `UPC` and the values handed on inside the command are gone. -/
def State.quit (s : State) : State :=
  { s with active := none, result := none, stg := none, tc := none, pp := none, hh := none }

/-- R200, R201: reset. A command in progress is abandoned without a response; the port, the responses
already given and the environment are outside the block and stay (log 7). -/
def State.applyReset (s : State) : State :=
  { State.reset with
    port := s.port
    responses := s.responses
    reads := s.reads
    bursts := s.bursts
    draws := s.draws
    busLog := s.busLog }

end Sys2Proof.Machine
end

