-- ==== Sys2Proof/Machine/Calibration.lean ====
section
/-! DEFINITION. 40_calibration.md: the decode functions (R103 to R108), the decode table (R109), and
the micro-operations `CALFETCH`, `CALDEC` and `CALCOMMIT`. `LOADCAL`, which runs them, is in
Machine/Session.lean. -/

namespace Sys2Proof.Machine

/-- R103: `hi * 256 + lo`, zero-extended. -/
def decU16LE (lo hi : Byte) : Word := zext32 16 (hi ++ lo)

/-- R104: `hi * 256 + lo` as 16-bit two's complement, sign-extended. -/
def decS16LE (lo hi : Byte) : Word := sext32 16 (hi ++ lo)

/-- R105: the byte, zero-extended. -/
def decU8 (b : Byte) : Word := zext32 8 b

/-- R106: the byte as 8-bit two's complement, sign-extended. -/
def decS8 (b : Byte) : Word := sext32 8 b

/-- R107: `(A << 4) + (B mod 16)`. -/
def decH4 (a b : Byte) : Word := (zext32 8 a <<< 4) + zext32 8 b % 16#32

/-- R108: `(C << 4) + (B >> 4)`. -/
def decH5 (c b : Byte) : Word := (zext32 8 c <<< 4) + zext32 8 b >>> 4

/-- R109: the decode table, applied to a whole calibration image. A register keeps the low bits of the
decoded word; its normalised read (R23) gives the word back. -/
def decodeImage (img : Addr → Byte) : Coeffs where
  t1 := (decU16LE (img 0x88#8) (img 0x89#8)).setWidth 16
  t2 := (decS16LE (img 0x8A#8) (img 0x8B#8)).setWidth 16
  t3 := (decS16LE (img 0x8C#8) (img 0x8D#8)).setWidth 16
  p1 := (decU16LE (img 0x8E#8) (img 0x8F#8)).setWidth 16
  p2 := (decS16LE (img 0x90#8) (img 0x91#8)).setWidth 16
  p3 := (decS16LE (img 0x92#8) (img 0x93#8)).setWidth 16
  p4 := (decS16LE (img 0x94#8) (img 0x95#8)).setWidth 16
  p5 := (decS16LE (img 0x96#8) (img 0x97#8)).setWidth 16
  p6 := (decS16LE (img 0x98#8) (img 0x99#8)).setWidth 16
  p7 := (decS16LE (img 0x9A#8) (img 0x9B#8)).setWidth 16
  p8 := (decS16LE (img 0x9C#8) (img 0x9D#8)).setWidth 16
  p9 := (decS16LE (img 0x9E#8) (img 0x9F#8)).setWidth 16
  h1 := (decU8 (img 0xA1#8)).setWidth 8
  h2 := (decS16LE (img 0xE1#8) (img 0xE2#8)).setWidth 16
  h3 := (decU8 (img 0xE3#8)).setWidth 8
  h4 := (decH4 (img 0xE4#8) (img 0xE5#8)).setWidth 16
  h5 := (decH5 (img 0xE6#8) (img 0xE5#8)).setWidth 16
  h6 := (decS8 (img 0xE7#8)).setWidth 8

/-- All 32 calibration bytes are in the buffer. -/
def Memory.complete (m : Memory) : Bool :=
  Config.calAddrs.all (fun a => (Memory.read m a.toNat).isSome)

/-- The image a buffer holds. It is used only where the byte is present (`Memory.complete`). -/
def Memory.image (m : Memory) (a : Addr) : Byte := (Memory.read m a.toNat).getD 0#8

/-- R102: the staged coefficients, or nothing if one of the 32 bytes holds no value. -/
def calDec (m : Memory) : Option Coeffs :=
  if Memory.complete m then some (decodeImage (Memory.image m)) else none

/-- R101: single-byte reads of the addresses in order, each byte into `CALBUF`; the first `Fail` ends the
sequence and the remaining addresses are not read. The returned `Ok` or `Fail` goes to `result`. -/
def calFetch : List Addr → State → Out
  | [], s => .next { s with result := some .ok }
  | a :: rest, s =>
    match s.nextRead with
    | .ok b =>
      let t := s.takeRead a true
      calFetch rest { t with calbuf := Memory.write t.calbuf a.toNat b }
    | .fail =>
      let t := s.takeRead a false
      .next { t with result := some .fail }
    | .silent => .fault .unansweredRead

/-- R101 `CALFETCH`: the 32 calibration reads, ascending (R69). Writes no flag. -/
def execCalfetch (s : State) : Out := calFetch Config.calAddrs s

/-- R102 `CALDEC`: `stg` becomes the decoded `CALBUF`. Writes no flag. -/
def execCaldec (s : State) : Out :=
  readReg .calbuf (calDec s.calbuf) fun stg => .next { s with stg := some stg }

/-- R110 `CALCOMMIT`: all 18 coefficient registers in one step, and `CAL_VALID`. -/
def execCalcommit (s : State) : Out :=
  readReg .stg s.stg fun stg => .next { s with coeffs := some stg, calValid := true }

end Sys2Proof.Machine
end

