-- ==== Sys2Proof/Machine/Arith.lean ====
section
/-! DEFINITION. The arithmetic primitives of 00_scope.md, R7 to R12, on the 32-bit word. `as_u32` and
`as_s32` reinterpret the same bits, so they are no operation here; R8: the unsigned add, subtract and
multiply give the same 32 bits as the signed ones. Laws/Arith.lean reads each as an integer. -/

namespace Sys2Proof.Machine

/-- R7: the word congruent to `z` modulo 2^32. -/
def wrap32 (z : Int) : Word := BitVec.ofInt 32 z

/-- R8: `wrap32(a + b)`; also `uadd32`. -/
def add32 (a b : Word) : Word := a + b

/-- R8: `wrap32(a - b)`; also `usub32`. -/
def sub32 (a b : Word) : Word := a - b

/-- R8: `wrap32(a * b)`; also `umul32`. -/
def mul32 (a b : Word) : Word := a * b

/-- R9: `wrap32(a * 2^n)`; also `ushl32`. -/
def shl32 (a : Word) (n : Nat) : Word := a <<< n

/-- R10: `floor(a / 2^n)` of the signed reading: the sign is copied into the vacated bits. -/
def asr32 (a : Word) (n : Nat) : Word := a.sshiftRight n

/-- R11: `floor(u / 2^n)` of the unsigned reading. -/
def lsr32 (u : Word) (n : Nat) : Word := u >>> n

/-- R11: `floor(u / d)` of the unsigned readings; no rule evaluates it at `d = 0` (log 14). -/
def udiv32 (u d : Word) : Word := u / d

/-- R12: the signed comparison. -/
def lts32 (a b : Word) : Bool := a.slt b

/-- R12: the unsigned comparison. -/
def ltu32 (a b : Word) : Bool := a.ult b

end Sys2Proof.Machine
end

