-- ==== Sys2Proof/Machine/Humidity.lean ====
section
/-! DEFINITION. 44_humidity.md: `COMPH`. -/

namespace Sys2Proof.Machine

/-- R150, lines `x`. -/
def humX (adcH v h4 h5 : Word) : Word :=
  asr32 (add32 (sub32 (sub32 (shl32 adcH 14) (shl32 h4 20)) (mul32 h5 v)) 16384#32) 15

/-- R150, lines `y1`, `y2`, `y3`, `y`. -/
def humY (v h2 h3 h6 : Word) : Word :=
  let y1 := asr32 (mul32 v h6) 10
  let y2 := add32 (asr32 (mul32 v h3) 11) 32768#32
  let y3 := add32 (asr32 (mul32 y1 y2) 10) 2097152#32
  asr32 (add32 (mul32 y3 h2) 8192#32) 14

/-- R150, lines `k` and `z2`: the pre-scale intermediate, from `z`. -/
def humZ2 (z h1 : Word) : Word :=
  let k := asr32 z 15
  sub32 z (asr32 (mul32 (asr32 (mul32 k k) 7) h1) 4)

/-- R150, the two lines `c`: the clamp to the closed range 0 .. 419430400 (R183: no event). -/
def humClamp (z2 : Word) : Word :=
  let c := if lts32 z2 0#32 then 0#32 else z2
  if lts32 Config.humClampMax c then Config.humClampMax else c

/-- R150: `z2` from the operands. -/
def humPre (adcH tFine h1 h2 h3 h4 h5 h6 : Word) : Word :=
  let v := sub32 tFine 76800#32
  humZ2 (mul32 (humX adcH v h4 h5) (humY v h2 h3 h6)) h1

/-- R150: `COMPH(adc_H, t_fine, H1..H6)`, in units of 1/1024 percent (R151). -/
def compH (adcH tFine h1 h2 h3 h4 h5 h6 : Word) : Word :=
  asr32 (humClamp (humPre adcH tFine h1 h2 h3 h4 h5 h6)) Config.humOutShift

/-- `COMPH` on the coefficient file. -/
def compHOf (raw : BitVec 16) (tFine : Word) (c : Coeffs) : Word :=
  compH (zext32 16 raw) tFine (c.get .h1) (c.get .h2) (c.get .h3) (c.get .h4) (c.get .h5) (c.get .h6)

/-- R150 `COMPH`: hands `hum_q10` to `PUBLISH`; writes no register and no flag (R153). -/
def execComph (s : State) : Out :=
  readReg .rawH s.rawH fun raw =>
    readReg .tFine s.tFine fun tf =>
      readReg .coefficients s.coeffs fun c =>
        .next { s with hh := some (compHOf raw tf c) }

end Sys2Proof.Machine
end

