-- ==== Sys2Proof/Machine/Pressure.lean ====
section
/-! DEFINITION. 43_pressure.md: `COMPP`, cut at the points its rules speak of: `v1b` and the
denominator (R141, R182), the rescale (R142) and the two correction terms. -/

namespace Sys2Proof.Machine

/-- R140, line `v1`. -/
def pressV1 (tFine : Word) : Word := sub32 (asr32 tFine 1) 64000#32

/-- R140, lines `q` and `qq`. -/
def pressQQ (v1 : Word) : Word :=
  let q := asr32 v1 2
  mul32 q q

/-- R140, lines `v2a`, `v2b`, `v2`. -/
def pressV2 (tFine p4 p5 p6 : Word) : Word :=
  let v1 := pressV1 tFine
  let v2a := mul32 (asr32 (pressQQ v1) 11) p6
  let v2b := add32 v2a (shl32 (mul32 v1 p5) 1)
  add32 (asr32 v2b 2) (shl32 p4 16)

/-- R140, lines `t1`, `t2`, `v1b`. -/
def pressV1b (tFine p2 p3 : Word) : Word :=
  let v1 := pressV1 tFine
  let t1 := asr32 (mul32 p3 (asr32 (pressQQ v1) 13)) 3
  let t2 := asr32 (mul32 p2 v1) 1
  asr32 (add32 t1 t2) 18

/-- R140, line `den`, from `v1b`. -/
def pressDenOf (v1b p1 : Word) : Word := asr32 (mul32 (add32 32768#32 v1b) p1) 15

/-- R140, line `den`: it depends only on `t_fine` and P1 to P3 (R182). -/
def pressDen (tFine p1 p2 p3 : Word) : Word := pressDenOf (pressV1b tFine p2 p3) p1

/-- R140, line `p0_u`. -/
def pressP0 (adcP v2 : Word) : Word :=
  mul32 (sub32 (sub32 1048576#32 adcP) (asr32 v2 12)) 3125#32

/-- R140, R142: `p1_u`, the canonical two-branch unsigned division; only called with `den_u` not 0. -/
def pressRescale (p0 den : Word) : Word :=
  if ltu32 p0 0x80000000#32 then udiv32 (shl32 p0 1) den
  else mul32 (udiv32 p0 den) 2#32

/-- R140, lines `s_u` to `press_pa`: the two correction terms. -/
def pressCorrect (p1u p7 p8 p9 : Word) : Word :=
  let s := lsr32 p1u 3
  let sq := lsr32 (mul32 s s) 13
  let c1 := asr32 (mul32 p9 sq) 12
  let c2 := asr32 (mul32 (lsr32 p1u 2) p8) 13
  let corr := asr32 (add32 (add32 c1 c2) p7) 4
  add32 p1u corr

/-- R140: `COMPP(adc_P, t_fine, P1..P9)`. The zero test comes before any division. -/
def compP (adcP tFine p1 p2 p3 p4 p5 p6 p7 p8 p9 : Word) : Pressure :=
  let den := pressDen tFine p1 p2 p3
  if den = 0#32 then .unavailable
  else
    let p1u := pressRescale (pressP0 adcP (pressV2 tFine p4 p5 p6)) den
    .pascals (pressCorrect p1u p7 p8 p9)

/-- `COMPP` on the coefficient file. -/
def compPOf (raw : BitVec 20) (tFine : Word) (c : Coeffs) : Pressure :=
  compP (zext32 20 raw) tFine (c.get .p1) (c.get .p2) (c.get .p3) (c.get .p4) (c.get .p5) (c.get .p6)
    (c.get .p7) (c.get .p8) (c.get .p9)

/-- R140 `COMPP`: hands `press_pa` or `Unavailable` on; writes no register and no flag (R143). -/
def execCompp (s : State) : Out :=
  readReg .rawP s.rawP fun raw =>
    readReg .tFine s.tFine fun tf =>
      readReg .coefficients s.coeffs fun c =>
        .next { s with pp := some (compPOf raw tf c) }

end Sys2Proof.Machine
end

