-- ==== Sys2Proof/Machine/Publish.lean ====
section
/-! DEFINITION. 45_session.md, R163: `PUBLISH`. -/

namespace Sys2Proof.Machine

/-- R163: the operand `pp` of `PUBLISH` is a `u32`. `Unavailable` is none, so no pressure is held
there (log 20); R92 skips `PUBLISH` then. -/
def State.heldPressure (s : State) : Option Word :=
  match s.pp with
  | some (.pascals p) => some p
  | some .unavailable => none
  | none => none

/-- R163 `PUBLISH`: the three published registers and `RD_VALID`, in one step. -/
def execPublish (s : State) : Out :=
  readReg .tc s.tc fun tc =>
    readReg .pp s.heldPressure fun p =>
      readReg .hh s.hh fun hh =>
        .next { s with tempCenti := some tc, pressPa := some p, humQ10 := some hh, rdValid := true }

end Sys2Proof.Machine
end

