-- ==== Sys2Proof/Machine/RawSample.lean ====
section
/-! DEFINITION. 41_raw_sample.md: the micro-operations `BURSTRD` and `RAWDEC`. -/

namespace Sys2Proof.Machine

/-- R120 `BURSTRD`: one 8-byte burst from `A_MEAS`; on `Fail`, `BURST` is not written. Writes no flag. -/
def execBurstrd (s : State) : Out :=
  match s.nextBurst with
  | .ok b =>
    let t := s.takeBurst true
    .next { t with burst := some b, result := some .ok }
  | .fail =>
    let t := s.takeBurst false
    .next { t with result := some .fail }
  | .silent => .fault .unansweredRead

/-- R121, R86: `(hi << 12) | (mid << 4) | (lo >> 4)`, 20 bits; the low nibble of `lo` is discarded (R87). -/
def raw20 (hi mid lo : Byte) : BitVec 20 :=
  (hi.setWidth 20 <<< 12) ||| (mid.setWidth 20 <<< 4) ||| (lo.setWidth 20 >>> 4)

/-- R121, R86: `(hi << 8) | lo`, 16 bits. -/
def raw16 (hi lo : Byte) : BitVec 16 := (hi.setWidth 16 <<< 8) ||| lo.setWidth 16

/-- R121 `RAWDEC`: the three raw values, all from the one `BURST`. No raw value is special (R123). -/
def execRawdec (s : State) : Out :=
  readReg .burst s.burst fun b =>
    .next { s with
      rawP := some (raw20 b.b0 b.b1 b.b2)
      rawT := some (raw20 b.b3 b.b4 b.b5)
      rawH := some (raw16 b.b6 b.b7) }

end Sys2Proof.Machine
end

