-- ==== Sys2Proof/Machine/Temperature.lean ====
section
/-! DEFINITION. 42_temperature.md: `COMPT`. -/

namespace Sys2Proof.Machine

/-- R130, up to `t_fine`. -/
def tempFine (adcT t1 t2 t3 : Word) : Word :=
  let a := asr32 adcT 3
  let b := shl32 t1 1
  let d := sub32 a b
  let var1 := asr32 (mul32 d t2) 11
  let c := sub32 (asr32 adcT 4) t1
  let cc := mul32 c c
  let var2 := asr32 (mul32 (asr32 cc 12) t3) 14
  add32 var1 var2

/-- R130, the last line: `temp_centi` from `t_fine`. -/
def tempCentiOf (tFine : Word) : Word := asr32 (add32 (mul32 tFine 5#32) 128#32) 8

/-- R130: the pair `(temp_centi, t_fine)`. -/
def compT (adcT t1 t2 t3 : Word) : Word × Word :=
  let tFine := tempFine adcT t1 t2 t3
  (tempCentiOf tFine, tFine)

/-- R130 `COMPT`: writes `T_FINE` and hands `temp_centi` to `PUBLISH`. Writes no flag. -/
def execCompt (s : State) : Out :=
  readReg .rawT s.rawT fun raw =>
    readReg .coefficients s.coeffs fun c =>
      let r := compT (zext32 20 raw) (c.get .t1) (c.get .t2) (c.get .t3)
      .next { s with tFine := some r.2, tc := some r.1 }

end Sys2Proof.Machine
end

