-- ==== Sys2Proof/Machine/Sequencer.lean ====
section
/-! DEFINITION. The sequencer (R22, R92): the two microprograms, the meaning of a micro-operation code
inside the sequencer, and what the pseudocode of `LOADCAL` (R100) and `READCOMP` (R162) does around
each micro-operation: the writes of `SS`, the early ends, and the response. -/

namespace Sys2Proof.Machine

/-- R92: the two microprograms; `UPC` is the index into the list. -/
def microprogram : SeqCmd → List Instr
  | .loadcal => [.calfetch, .caldec, .calcommit]
  | .readcomp => [.burstrd, .rawdec, .compt, .compp, .comph, .publish]

/-- R22(b): the micro-operation at `UPC` of the command in progress. -/
def uopAt (a : Active) : Option Instr := (microprogram a.cmd)[a.upc]?

/-- R91: the effect of a micro-operation. A host command is no micro-operation. -/
def uopMeaning (i : Instr) (s : State) : Out :=
  match i with
  | .calfetch => execCalfetch s
  | .caldec => execCaldec s
  | .calcommit => execCalcommit s
  | .burstrd => execBurstrd s
  | .rawdec => execRawdec s
  | .compt => execCompt s
  | .compp => execCompp s
  | .comph => execComph s
  | .publish => execPublish s
  | .loadcal | .readcomp | .gett | .getp | .geth | .getstat => .fault .noMicroOperation

/-- R100, the success path after `CALCOMMIT`: `SS <- CalibrationLoaded`, at once `SS <- Ready`, then the
response `OK`. -/
def completeLoad (s : State) : State :=
  let loaded := { s with ss := SessionState.calibrationLoaded }
  let ready := { loaded with ss := SessionState.ready }
  (ready.succeed 0#32).quit

/-- R162, the success path after `PUBLISH`. -/
def completeCycle (s : State) : State :=
  let t := { s with pUnavail := false, ss := SessionState.ready }
  (t.succeed 0#32).quit

/-- R100, R181: `IoFailure` during `LOADCAL`; `SS` stays `Uninitialized`. -/
def abortLoad (s : State) : State := (s.raise .ioFailure).quit

/-- R162: `READCOMP` ends with a non-OK status; `SS` returns to `Ready`. -/
def abortCycle (c : Cause) (s : State) : State :=
  let t := { s with ss := SessionState.ready }
  (t.raise c).quit

/-- What R100 and R162 do after a micro-operation has had its effect. -/
def sequencer (i : Instr) (s : State) : Out :=
  match i with
  | .calfetch =>
    readReg .result s.result fun r =>
      match r with
      | .ok => .next s.advance
      | .fail => .next (abortLoad s)
  | .caldec => .next s.advance
  | .calcommit => .next (completeLoad s)
  | .burstrd =>
    readReg .result s.result fun r =>
      match r with
      | .ok => .next s.advance
      | .fail => .next (abortCycle .ioFailure s)
  | .rawdec => .next ({ s with ss := SessionState.compensate } : State).advance
  | .compt => .next s.advance
  | .compp =>
    readReg .pp s.pp fun pp =>
      match pp with
      | .pascals _ => .next s.advance
      | .unavailable => .next (abortCycle .unavailable s)
  | .comph => .next s.advance
  | .publish => .next (completeCycle s)
  | .loadcal | .readcomp | .gett | .getp | .geth | .getstat => .fault .noMicroOperation

/-- One micro-operation of a command in progress: its effect, then the sequencer. -/
def uopStep (i : Instr) (s : State) : Out := andThen (uopMeaning i s) (sequencer i)

/-- R92: runs the command in progress, at most `n` micro-operations, until it ends. -/
def runMicro : Nat → State → Out
  | 0, s => .next s
  | n + 1, s =>
    match s.active with
    | none => .next s
    | some a =>
      match uopAt a with
      | none => .fault .noMicroOperation
      | some i => andThen (uopStep i s) (runMicro n)

end Sys2Proof.Machine
end

