-- ==== Sys2Proof/Machine/Session.lean ====
section
/-! DEFINITION. The six host commands (R100, R162, R164 to R167) and the illegal command byte (R187).
A command runs to completion and ends with exactly one response (R160). -/

namespace Sys2Proof.Machine

/-- R100 `LOADCAL`: refused once `CAL_VALID` is 1; else its microprogram. -/
def execLoadcal (s : State) : Out :=
  if s.calValid then .next (s.raise .alreadyLoaded)
  else runMicro 3 (s.accept .loadcal)

/-- R162 `READCOMP`: refused in `Uninitialized`; else its microprogram. -/
def execReadcomp (s : State) : Out :=
  if s.ss = .uninitialized then .next (s.raise .notReady)
  else runMicro 6 (s.accept .readcomp)

/-- R164 to R166: an accessor answers its register while `RD_VALID` is 1 and is refused otherwise. -/
def accessor (r : DataReg) (v : Option Word) (s : State) : Out :=
  if s.rdValid then readReg r v fun d => .next (s.succeed d)
  else .next (s.raise .noReading)

/-- R164 `GETT`: the data are the two's-complement bits of `TEMP_CENTI`. -/
def execGett (s : State) : Out := accessor .tempCenti s.tempCenti s

/-- R165 `GETP`. -/
def execGetp (s : State) : Out := accessor .pressPa s.pressPa s

/-- R166 `GETH`. -/
def execGeth (s : State) : Out := accessor .humQ10 s.humQ10 s

/-- R167 `GETSTAT`: the `STATUS` view; "changes no state at all, not even `LAST_STATUS`". -/
def execGetstat (s : State) : Out :=
  .next { s with responses := .ok s.statusWord :: s.responses }

/-- R90, R187: a command byte outside the six codes. -/
def illegalCommand (s : State) : State := s.raise .illegalCmd

end Sys2Proof.Machine
end

