-- ==== Sys2Proof/Machine/Dispatch.lean ====
section
/-! DEFINITION. One arm per row of spec/opcode_table.json. -/

namespace Sys2Proof.Machine

def exec (i : Instr) (s : State) : Host.Outcome State Fault Refusal :=
  match i with
  | .loadcal => Sys2Proof.Machine.execLoadcal s
  | .readcomp => Sys2Proof.Machine.execReadcomp s
  | .gett => Sys2Proof.Machine.execGett s
  | .getp => Sys2Proof.Machine.execGetp s
  | .geth => Sys2Proof.Machine.execGeth s
  | .getstat => Sys2Proof.Machine.execGetstat s
  | .calfetch => Sys2Proof.Machine.execCalfetch s
  | .caldec => Sys2Proof.Machine.execCaldec s
  | .calcommit => Sys2Proof.Machine.execCalcommit s
  | .burstrd => Sys2Proof.Machine.execBurstrd s
  | .rawdec => Sys2Proof.Machine.execRawdec s
  | .compt => Sys2Proof.Machine.execCompt s
  | .compp => Sys2Proof.Machine.execCompp s
  | .comph => Sys2Proof.Machine.execComph s
  | .publish => Sys2Proof.Machine.execPublish s

end Sys2Proof.Machine
end

