-- ==== Sys2Proof/WellFormed.lean ====
section
/-! DEFINITION. Where an operation may stand. The syntax has no operand, so the one thing to check
is the place: a host command stands on the command port (R88), a micro-operation stands in a
microprogram (R91), and "a host cannot issue a micro-operation" (R90). -/

namespace Sys2Proof

/-- R88: the six host commands, which may stand on the command port. -/
def Instr.isHost : Instr → Bool
  | .loadcal | .readcomp | .gett | .getp | .geth | .getstat => true
  | .calfetch | .caldec | .calcommit | .burstrd | .rawdec | .compt | .compp | .comph | .publish => false

/-- R91: the nine micro-operations, which may stand in a microprogram and nowhere else. -/
def Instr.isUop : Instr → Bool
  | .loadcal | .readcomp | .gett | .getp | .geth | .getstat => false
  | .calfetch | .caldec | .calcommit | .burstrd | .rawdec | .compt | .compp | .comph | .publish => true

/-- R94: a line of a host program expands to host commands. -/
def Line.wellFormed (l : Line) : Bool := l.expand.all Instr.isHost

/-- R94: a host program is a list of well-formed lines. -/
def hostProgramWellFormed (p : List Line) : Bool := p.all Line.wellFormed

/-- R92: a microprogram is a list of micro-operations. -/
def microprogramWellFormed (p : List Instr) : Bool := p.all Instr.isUop

end Sys2Proof
end

