-- ==== Sys2Proof/Decode.lean ====
section
/-! DEFINITION. The decoders of the command byte and of the micro-operation code, total on every
byte, written from the tables of R88 and R91; the encoder; and the assembler of R94. -/

namespace Sys2Proof

/-- The table of R88: command byte and host command. -/
def hostTable : List (Byte × Instr) :=
  [(0x01#8, .loadcal), (0x02#8, .readcomp), (0x04#8, .gett), (0x05#8, .getp), (0x06#8, .geth), (0x07#8, .getstat)]

/-- The table of R91: code and micro-operation. Bits 7:4 are the unit, bits 3:0 the operation in it. -/
def uopTable : List (Byte × Instr) :=
  [(0x10#8, .calfetch), (0x11#8, .caldec), (0x12#8, .calcommit), (0x20#8, .burstrd), (0x21#8, .rawdec),
   (0x30#8, .compt), (0x31#8, .compp), (0x32#8, .comph), (0x33#8, .publish)]

/-- The row of a table that a code selects, if any. -/
def tableLookup : List (Byte × Instr) → Byte → Option Instr
  | [], _ => none
  | (c, i) :: rest, b => if c = b then some i else tableLookup rest b

/-- R88, R90: what a command byte means on the command port; `none` is an illegal byte, the
micro-operation codes among them. -/
def decodeHost (b : Byte) : Option Instr := tableLookup hostTable b

/-- R91: what a code means inside the sequencer; `none` is an unused code. -/
def decodeUop (b : Byte) : Option Instr := tableLookup uopTable b

/-- The two decoders together. R90: the micro-operation codes lie in the illegal range of the host
command space, so the two tables do not meet. -/
def decode (b : Byte) : Option Instr :=
  match decodeHost b with
  | some i => some i
  | none => decodeUop b

/-- R88, R91: the code of an operation. -/
def encode : Instr → Byte
  | .loadcal => 0x01#8
  | .readcomp => 0x02#8
  | .gett => 0x04#8
  | .getp => 0x05#8
  | .geth => 0x06#8
  | .getstat => 0x07#8
  | .calfetch => 0x10#8
  | .caldec => 0x11#8
  | .calcommit => 0x12#8
  | .burstrd => 0x20#8
  | .rawdec => 0x21#8
  | .compt => 0x30#8
  | .compp => 0x31#8
  | .comph => 0x32#8
  | .publish => 0x33#8

/-- R93: every operation is exactly one byte, so only an 8-bit word decodes. -/
def decodeTableWord (nbits w : Nat) : Option Instr :=
  if nbits = 8 ∧ w < 256 then decode (BitVec.ofNat 8 w) else none

/-- R94: the encoding of a host program is the sequence of the command bytes. -/
def assemble (p : List Line) : List Byte := (p.flatMap Line.expand).map encode

/-- The host commands that a sequence of command bytes stands for; `none` if one byte is illegal. -/
def decodeProgram : List Byte → Option (List Instr)
  | [] => some []
  | b :: rest =>
    match decodeHost b, decodeProgram rest with
    | some i, some is => some (i :: is)
    | _, _ => none

end Sys2Proof
end

