-- ==== Sys2Proof/Machine/Fetch.lean ====
section
/-! DEFINITION. What the next step does: there is no instruction fetch (R71); a step takes what stands
at the port or goes on with the command in progress (R22, R160, R200). Also the helpers that place an
operation where the next step runs it. -/

namespace Sys2Proof.Machine

/-- What the next step has to do. -/
inductive Fetched where
  /-- R200: reset has arrived. -/
  | reset (t : State)
  /-- R22(b): the micro-operation at `UPC` of the command in progress. -/
  | uop (i : Instr)
  /-- R160: a host command is accepted; `t` is the state without its byte at the port. -/
  | command (i : Instr) (t : State)
  /-- R90: an illegal command byte is accepted. -/
  | illegal (t : State)
  /-- R168: nothing is at the port, and the block waits. -/
  | idle
  /-- U8: the sequencer stands at no micro-operation. -/
  | lost
  deriving DecidableEq, Repr

/-- R160, R200: reset is taken at once; a command in progress goes on before the next byte is accepted
(U3: nothing accepts a command while one is in progress); else the next byte at the port is accepted. -/
def fetch (s : State) : Fetched :=
  match s.port, s.active with
  | .reset :: rest, _ => .reset ({ s with port := rest } : State).applyReset
  | _, some a =>
    match uopAt a with
    | some i => .uop i
    | none => .lost
  | .command b :: rest, none =>
    match decodeHost b with
    | some i => .command i { s with port := rest }
    | none => .illegal { s with port := rest }
  | [], none => .idle

/-- R92: where a micro-operation stands in its microprogram. -/
def uopPlace : Instr → Option Active
  | .calfetch => some ⟨.loadcal, 0⟩
  | .caldec => some ⟨.loadcal, 1⟩
  | .calcommit => some ⟨.loadcal, 2⟩
  | .burstrd => some ⟨.readcomp, 0⟩
  | .rawdec => some ⟨.readcomp, 1⟩
  | .compt => some ⟨.readcomp, 2⟩
  | .compp => some ⟨.readcomp, 3⟩
  | .comph => some ⟨.readcomp, 4⟩
  | .publish => some ⟨.readcomp, 5⟩
  | .loadcal | .readcomp | .gett | .getp | .geth | .getstat => none

/-- A value that is held stays; where none is held, `d`. -/
def orElseHeld {α : Type} (v : Option α) (d : α) : Option α :=
  match v with
  | some a => some a
  | none => some d

/-- `CALBUF` with 0 at every calibration address that holds no byte. -/
def fillBuffer (m : Memory) : List Addr → Memory
  | [] => m
  | a :: rest =>
    match Memory.read m a.toNat with
    | some _ => fillBuffer m rest
    | none => fillBuffer (Memory.write m a.toNat 0#8) rest

/-- What stands in a script stays; an empty one becomes `d`. -/
def orElseScripted {α : Type} (l : List α) (d : List α) : List α :=
  match l with
  | [] => d
  | a :: rest => a :: rest

/-- Log 9: successful reads of zero bytes for an operation that uses the bus (R88: "the engine's inputs
come from the bus and from its own registers"), where no answer is scripted. Used by `withFetchWord`
only. -/
def withBusOperands (i : Instr) (s : State) : State :=
  match i with
  | .loadcal | .calfetch => { s with reads := orElseScripted s.reads (List.replicate 32 (.ok 0#8)) }
  | .readcomp | .burstrd => { s with bursts := orElseScripted s.bursts [.ok default] }
  | .gett | .getp | .geth | .getstat => s
  | .caldec | .calcommit | .rawdec | .compt | .compp | .comph | .publish => s

/-- Log 9: the operands that the earlier micro-operations of the microprogram would have delivered, all
bits zero where none is held (operand words of zeros). Used by `withFetchWord` only. -/
def withUopOperands (i : Instr) (s : State) : State :=
  match i with
  | .caldec => { s with calbuf := fillBuffer s.calbuf Config.calAddrs }
  | .calcommit => { s with stg := orElseHeld s.stg default }
  | .rawdec => { s with burst := orElseHeld s.burst default }
  | .compt => { s with rawT := orElseHeld s.rawT 0#20, coeffs := orElseHeld s.coeffs default }
  | .compp =>
    { s with
      rawP := orElseHeld s.rawP 0#20
      tFine := orElseHeld s.tFine 0#32
      coeffs := orElseHeld s.coeffs default }
  | .comph =>
    { s with
      rawH := orElseHeld s.rawH 0#16
      tFine := orElseHeld s.tFine 0#32
      coeffs := orElseHeld s.coeffs default }
  | .publish =>
    { s with
      tc := orElseHeld s.tc 0#32
      pp := some (.pascals (s.heldPressure.getD 0#32))
      hh := orElseHeld s.hh 0#32 }
  | .calfetch | .burstrd => s
  | .loadcal | .readcomp | .gett | .getp | .geth | .getstat => s

/-- The port without the resets that stand before the next command byte. -/
def dropResets : List PortEvent → List PortEvent
  | .reset :: rest => dropResets rest
  | p => p

/-- Places a code so that the next step runs it: a micro-operation code in the sequencer, with no reset
waiting; any other byte at the head of the port, with no command in progress. -/
def placeCode (b : Byte) (s : State) : State :=
  match decode b with
  | some i =>
    match uopPlace i with
    | some a => withUopOperands i (withBusOperands i { s with active := some a, port := dropResets s.port })
    | none => withBusOperands i { s with active := none, port := .command b :: s.port }
  | none => { s with active := none, port := .command b :: s.port }

end Sys2Proof.Machine
end

