-- ==== Sys2Proof/Machine/Step.lean ====
section
/-! DEFINITION. One step: a reset, a whole host command (R160: a command runs to completion, and
"nothing inside a command can be observed"), or, in a state that stands inside a command, one
micro-operation (log 6). -/

namespace Sys2Proof.Machine

/-- The step. R168: with nothing at the port and no command in progress the block waits. -/
def step (s : State) : Host.Outcome State Fault Refusal :=
  match fetch s with
  | .reset t => .next t
  | .uop i => andThen (exec i s) (sequencer i)
  | .command i t => exec i t
  | .illegal t => .next (illegalCommand t)
  | .idle => .next s
  | .lost => .fault .noMicroOperation

/-- `s` with the operation whose bits are `w` placed where the next step runs it. Every operation is one
byte (R93); the bits above `nbits` are 0. -/
def State.withFetchWord (s : State) (nbits w : Nat) : State := placeCode (BitVec.ofNat 8 (w % 2 ^ nbits)) s

end Sys2Proof.Machine
end

