-- ==== Sys2Proof/Safety.lean ====
section
/-! DEFINITION. What a good state is, in the terms the statements use: the invariant that reset
satisfies and every step keeps, and what one reading cycle computes from one burst. -/

namespace Sys2Proof.Machine

/-- The next state of an outcome, if it has one. -/
def nextOf (o : Out) : Option State :=
  match o with
  | .next t => some t
  | .fault _ => none
  | .refused _ => none

/-- `n` steps, stopping at the first fault or refusal. -/
def steps : Nat → State → Out
  | 0, s => .next s
  | n + 1, s => andThen (step s) (steps n)

/-- R121: `RAW_P` of a burst. -/
def burstP (b : Burst) : BitVec 20 := raw20 b.b0 b.b1 b.b2

/-- R121: `RAW_T` of a burst. -/
def burstT (b : Burst) : BitVec 20 := raw20 b.b3 b.b4 b.b5

/-- R121: `RAW_H` of a burst. -/
def burstH (b : Burst) : BitVec 16 := raw16 b.b6 b.b7

/-- R162: the pair `(temp_centi, t_fine)` that a cycle computes from a burst. -/
def cycleT (b : Burst) (c : Coeffs) : Word × Word :=
  compT (zext32 20 (burstT b)) (c.get .t1) (c.get .t2) (c.get .t3)

/-- R162: the pressure that a cycle computes from a burst. -/
def cycleP (b : Burst) (c : Coeffs) : Pressure := compPOf (burstP b) (cycleT b c).2 c

/-- R162: the humidity that a cycle computes from a burst. -/
def cycleH (b : Burst) (c : Coeffs) : Word := compHOf (burstH b) (cycleT b c).2 c

/-- R67: the `k`-th answer, counted from now, that the environment gives to a single-byte read. -/
def State.answerAt (s : State) (k : Nat) : Answer Byte :=
  match s.reads[k]? with
  | some a => a
  | none => Config.readAnswer (s.draws + (k - s.reads.length))

/-- The next step belongs to a `READCOMP`: one is in progress, or its byte is accepted now (R160). -/
def State.atCycle (s : State) : Prop :=
  (∃ upc, s.active = some ⟨.readcomp, upc⟩) ∨ (s.active = none ∧ ∃ rest, s.port = .command 0x02#8 :: rest)

/-- The next step is a `GETSTAT`. -/
def State.atGetstat (s : State) : Prop := s.active = none ∧ ∃ rest, s.port = .command 0x07#8 :: rest

/-- R101: `CALBUF` after the bytes `img a` have been stored at the addresses of a list, in order. -/
def storeAll (img : Addr → Byte) : List Addr → Memory → Memory
  | [], m => m
  | a :: rest, m => storeAll img rest (Memory.write m a.toNat (img a))

/-- R111: H4 and H5 hold 12 significant bits. -/
def Coeffs.ranged (c : Coeffs) : Prop := c.h4.toNat ≤ 4095 ∧ c.h5.toNat ≤ 4095

/-- R17, R22(b): the values handed on inside a command do not exist between commands. -/
def State.noLocals (s : State) : Prop :=
  s.result = none ∧ s.stg = none ∧ s.tc = none ∧ s.pp = none ∧ s.hh = none

/-- R46, R205: the raw registers are the decode of the one `BURST`. -/
def State.rawFromBurst (s : State) : Prop :=
  s.rawP = s.burst.map burstP ∧ s.rawT = s.burst.map burstT ∧ s.rawH = s.burst.map burstH

/-- R163: the published registers are what one cycle computes from one burst. -/
def State.publishedCoherent (s : State) : Prop :=
  ∃ b c p, s.coeffs = some c ∧ cycleP b c = .pascals p ∧
    s.tempCenti = some (cycleT b c).1 ∧ s.pressPa = some p ∧ s.humQ10 = some (cycleH b c)

/-- R162, R203: in the cycle on `b`, `COMPT` has run: `T_FINE` and `temp_centi` are this cycle's. -/
def State.tempDone (s : State) (b : Burst) (c : Coeffs) : Prop :=
  s.tFine = some (cycleT b c).2 ∧ s.tc = some (cycleT b c).1

/-- R21, R92: what holds inside `LOADCAL` before the micro-operation at `UPC`. -/
def State.inLoad (s : State) (upc : Nat) : Prop :=
  s.calValid = false ∧ s.ss = .uninitialized ∧ s.rawFromBurst ∧
  match upc with
  | 0 => True
  | 1 => Memory.complete s.calbuf = true
  | 2 => ∃ c, s.stg = some c ∧ c.ranged
  | _ => False

/-- R21, R92: what holds inside `READCOMP` before the micro-operation at `UPC`. -/
def State.inCycle (s : State) (upc : Nat) : Prop :=
  s.calValid = true ∧
  match upc with
  | 0 => s.ss = .readRaw ∧ s.rawFromBurst
  | 1 => s.ss = .readRaw ∧ ∃ b, s.burst = some b
  | 2 => s.ss = .compensate ∧ s.rawFromBurst ∧ ∃ b, s.burst = some b
  | 3 => s.ss = .compensate ∧ s.rawFromBurst ∧ ∃ b c, s.burst = some b ∧ s.coeffs = some c ∧ s.tempDone b c
  | 4 => s.ss = .compensate ∧ s.rawFromBurst ∧ ∃ b c p, s.burst = some b ∧ s.coeffs = some c ∧ s.tempDone b c ∧
      cycleP b c = .pascals p ∧ s.pp = some (.pascals p)
  | 5 => s.ss = .compensate ∧ s.rawFromBurst ∧ ∃ b c p, s.burst = some b ∧ s.coeffs = some c ∧ s.tempDone b c ∧
      cycleP b c = .pascals p ∧ s.pp = some (.pascals p) ∧ s.hh = some (cycleH b c)
  | _ => False

/-- R21, R53: between commands the host sees `Uninitialized` exactly while `CAL_VALID` is 0, and `Ready`
otherwise. -/
def State.between (s : State) : Prop :=
  s.noLocals ∧ s.rawFromBurst ∧
  (s.calValid = false ∧ s.ss = .uninitialized ∨ s.calValid = true ∧ s.ss = .ready)

/-- The place of the machine in its session and in its microprogram. -/
def State.placed (s : State) : Prop :=
  match s.active with
  | none => s.between
  | some ⟨.loadcal, upc⟩ => s.inLoad upc
  | some ⟨.readcomp, upc⟩ => s.inCycle upc

/-- The invariant. -/
structure State.Inv (s : State) : Prop where
  /-- R42: `CALBUF` keeps its canonical form. -/
  bufferForm : Memory.wf s.calbuf
  /-- R42: `CALBUF` holds bytes of calibration addresses only. -/
  bufferAddrs : ∀ x ∈ s.calbuf, ∃ a ∈ Config.calAddrs, x.1 = a.toNat
  /-- R53: `CAL_VALID` is 1 exactly when the coefficient file holds values. -/
  coeffsHeld : s.calValid = s.coeffs.isSome
  /-- R39, R40: H4 and H5 are in 0..4095. -/
  coeffsRanged : ∀ c, s.coeffs = some c → c.ranged
  /-- R54: `RD_VALID` is 1 exactly when the published registers hold a reading. -/
  readingHeld : s.rdValid = s.tempCenti.isSome ∧ s.rdValid = s.pressPa.isSome ∧ s.rdValid = s.humQ10.isSome
  /-- R163: a published reading is one coherent triple. -/
  readingCoherent : s.rdValid = true → s.publishedCoherent
  /-- R21, R22, R161. -/
  inPlace : s.placed

end Sys2Proof.Machine
end

