-- ==== Sys2Proof/Certificates/Slice0/Obligations.lean ====
section
/-! DEFINITION. The statements about the model. First, in `Sys2Proof.Ref`, the three compensation
functions once more, on unbounded integers with `wrap32` and `floor` written out as R7 to R11 say them:
the statements about `COMPT`, `COMPP` and `COMPH` compare the machine's 32-bit words with these. -/

namespace Sys2Proof.Ref

/-- R7: the `s32` value congruent to `z` modulo 2^32. -/
def wrap (z : Int) : Int := (z + 2147483648) % 4294967296 - 2147483648

/-- R7: the `u32` value congruent to `z` modulo 2^32. -/
def uwrap (z : Int) : Int := z % 4294967296

/-- R10, R11: `floor(z / 2^n)`. -/
def sar (z : Int) (n : Nat) : Int := z / 2 ^ n

/-- R130: `(temp_centi, t_fine)`. -/
def temp (adcT t1 t2 t3 : Int) : Int × Int :=
  let a := sar adcT 3
  let b := wrap (t1 * 2 ^ 1)
  let d := wrap (a - b)
  let var1 := sar (wrap (d * t2)) 11
  let c := wrap (sar adcT 4 - t1)
  let cc := wrap (c * c)
  let var2 := sar (wrap (sar cc 12 * t3)) 14
  let tFine := wrap (var1 + var2)
  (sar (wrap (wrap (tFine * 5) + 128)) 8, tFine)

/-- R140: `v1b`. -/
def v1b (tFine p2 p3 : Int) : Int :=
  let v1 := wrap (sar tFine 1 - 64000)
  let q := sar v1 2
  let qq := wrap (q * q)
  let t1 := sar (wrap (p3 * sar qq 13)) 3
  let t2 := sar (wrap (p2 * v1)) 1
  sar (wrap (t1 + t2)) 18

/-- R140: `den`. -/
def den (tFine p1 p2 p3 : Int) : Int := sar (wrap (wrap (32768 + v1b tFine p2 p3) * p1)) 15

/-- R140: `v2`. -/
def v2 (tFine p4 p5 p6 : Int) : Int :=
  let v1 := wrap (sar tFine 1 - 64000)
  let q := sar v1 2
  let qq := wrap (q * q)
  let v2a := wrap (sar qq 11 * p6)
  let v2b := wrap (v2a + wrap (wrap (v1 * p5) * 2 ^ 1))
  wrap (sar v2b 2 + wrap (p4 * 2 ^ 16))

/-- R140: `press_pa`, or nothing where `Unavailable`. -/
def press (adcP tFine p1 p2 p3 p4 p5 p6 p7 p8 p9 : Int) : Option Int :=
  let dn := den tFine p1 p2 p3
  if dn = 0 then none
  else
    let denU := uwrap dn
    let p0 := uwrap (uwrap (uwrap (1048576 - adcP) - uwrap (sar (v2 tFine p4 p5 p6) 12)) * 3125)
    let p1u := if p0 < 2147483648 then uwrap (p0 * 2 ^ 1) / denU else uwrap (p0 / denU * 2)
    let s := sar p1u 3
    let sq := sar (uwrap (s * s)) 13
    let c1 := sar (wrap (p9 * wrap sq)) 12
    let c2 := sar (wrap (wrap (sar p1u 2) * p8)) 13
    let corr := sar (wrap (wrap (c1 + c2) + p7)) 4
    some (uwrap (wrap (wrap p1u + corr)))

/-- R150: `z2`, the pre-scale intermediate. -/
def humPre (adcH tFine h1 h2 h3 h4 h5 h6 : Int) : Int :=
  let v := wrap (tFine - 76800)
  let x := sar (wrap (wrap (wrap (wrap (adcH * 2 ^ 14) - wrap (h4 * 2 ^ 20)) - wrap (h5 * v)) + 16384)) 15
  let y1 := sar (wrap (v * h6)) 10
  let y2 := wrap (sar (wrap (v * h3)) 11 + 32768)
  let y3 := wrap (sar (wrap (y1 * y2)) 10 + 2097152)
  let y := sar (wrap (wrap (y3 * h2) + 8192)) 14
  let z := wrap (x * y)
  let k := sar z 15
  wrap (z - sar (wrap (sar (wrap (k * k)) 7 * h1)) 4)

/-- R150: `hum_q10`: the clamp to 0 .. 419430400, then the shift by 12. -/
def hum (adcH tFine h1 h2 h3 h4 h5 h6 : Int) : Int :=
  let z2 := humPre adcH tFine h1 h2 h3 h4 h5 h6
  sar (min (max z2 0) 419430400) 12

end Sys2Proof.Ref

open Sys2Proof Sys2Proof.Machine

/-! ### Arithmetic (00_scope.md) -/

/-- R7: a word has one `s32` and one `u32` reading, in the stated ranges, and `wrap32 z` is the unique
word whose readings are congruent to `z` modulo 2^32. -/
def Obligations.WrapIsTheUniqueCongruentWord : Prop :=
  ∀ (w : Word) (z : Int),
    (-2147483648 ≤ w.toInt ∧ w.toInt ≤ 2147483647) ∧ w.toNat ≤ 4294967295 ∧
    (w = wrap32 z ↔ ∃ k : Int, w.toInt = z + k * 4294967296) ∧
    (w = wrap32 z ↔ ∃ k : Int, (w.toNat : Int) = z + k * 4294967296) ∧
    (w.toNat : Int) = w.toInt % 4294967296 ∧ w = wrap32 w.toNat

/-- R8: add, subtract and multiply are exact, then wrapped, on the signed and on the unsigned reading. -/
def Obligations.AddSubMulAreExactThenWrapped : Prop :=
  ∀ a b : Word,
    add32 a b = wrap32 (a.toInt + b.toInt) ∧ sub32 a b = wrap32 (a.toInt - b.toInt) ∧
    mul32 a b = wrap32 (a.toInt * b.toInt) ∧
    ((add32 a b).toNat : Int) = (a.toNat + b.toNat) % 4294967296 ∧
    ((sub32 a b).toNat : Int) = (a.toNat - b.toNat) % 4294967296 ∧
    ((mul32 a b).toNat : Int) = (a.toNat * b.toNat) % 4294967296

/-- R9: the left shift is a multiplication by 2^n, wrapped. -/
def Obligations.LeftShiftIsMultiplyThenWrap : Prop :=
  ∀ (a : Word) (n : Nat), n ≤ 31 →
    shl32 a n = wrap32 (a.toInt * 2 ^ n) ∧ (shl32 a n).toNat = a.toNat * 2 ^ n % 4294967296

/-- R10: the arithmetic right shift is the floor of the quotient by 2^n; for a negative value not
divisible by 2^n it is one less than the quotient truncated toward zero. -/
def Obligations.ArithmeticShiftIsFloor : Prop :=
  (∀ (a : Word) (n : Nat), n ≤ 31 →
    (∃ r : Int, 0 ≤ r ∧ r < 2 ^ n ∧ a.toInt = (asr32 a n).toInt * 2 ^ n + r) ∧
    (a.toInt < 0 → ¬ (2 ^ n : Int) ∣ a.toInt → (asr32 a n).toInt = a.toInt.tdiv (2 ^ n) - 1)) ∧
  asr32 (wrap32 (-5)) 1 = wrap32 (-3)

/-- R11, as to the values: the logical shift and the unsigned division are floors. -/
def Obligations.LogicalShiftAndDivisionAreFloors : Prop :=
  ∀ (u d : Word) (n : Nat),
    (lsr32 u n).toNat = u.toNat / 2 ^ n ∧
    (d ≠ 0#32 → ∃ r : Nat, r < d.toNat ∧ u.toNat = (udiv32 u d).toNat * d.toNat + r)

/-! ### Encodings (30_encoding.md) -/

/-- R88, R90: the six command bytes and no other byte decode on the port. -/
def Obligations.CommandBytesDecode : Prop :=
  (decodeHost 0b00000001#8 = some .loadcal ∧ decodeHost 0b00000010#8 = some .readcomp ∧
    decodeHost 0b00000100#8 = some .gett ∧ decodeHost 0b00000101#8 = some .getp ∧
    decodeHost 0b00000110#8 = some .geth ∧ decodeHost 0b00000111#8 = some .getstat) ∧
  ∀ b : Byte, decodeHost b = none ↔ b = 0x00#8 ∨ b = 0x03#8 ∨ 0x08#8 ≤ b

/-- R91: the nine codes, their unit in bits 7:4, and that no other code occurs and none is a command. -/
def Obligations.MicroOperationCodesDecode : Prop :=
  (decodeUop 0b00010000#8 = some .calfetch ∧ decodeUop 0b00010001#8 = some .caldec ∧
    decodeUop 0b00010010#8 = some .calcommit ∧ decodeUop 0b00100000#8 = some .burstrd ∧
    decodeUop 0b00100001#8 = some .rawdec ∧ decodeUop 0b00110000#8 = some .compt ∧
    decodeUop 0b00110001#8 = some .compp ∧ decodeUop 0b00110010#8 = some .comph ∧
    decodeUop 0b00110011#8 = some .publish) ∧
  (∀ b : Byte, (decodeUop b).isSome = true ↔
    b ∈ [0x10#8, 0x11#8, 0x12#8, 0x20#8, 0x21#8, 0x30#8, 0x31#8, 0x32#8, 0x33#8]) ∧
  (∀ (b : Byte) (i : Instr), decodeUop b = some i → decodeHost b = none ∧ i.isUop = true ∧
    (b >>> 4 = 1#8 ↔ i = .calfetch ∨ i = .caldec ∨ i = .calcommit) ∧
    (b >>> 4 = 2#8 ↔ i = .burstrd ∨ i = .rawdec) ∧
    (b >>> 4 = 3#8 ↔ i = .compt ∨ i = .compp ∨ i = .comph ∨ i = .publish))

/-- The code of every operation decodes to it, at its place, and no two codes decode to one operation. -/
def Obligations.DecodeAndEncodeAgree : Prop :=
  (∀ i : Instr, decode (encode i) = some i ∧ decodeTableWord 8 (encode i).toNat = some i ∧
    (i.isHost = true → decodeHost (encode i) = some i) ∧ (i.isUop = true → decodeUop (encode i) = some i)) ∧
  ∀ (b : Byte) (i : Instr), decode b = some i → b = encode i

/-- R94, R95: assembling a well-formed host program loses nothing: its command bytes decode to the
commands its lines expand to. -/
def Obligations.AssembledProgramDecodesToItsCommands : Prop :=
  ∀ p : List Line, hostProgramWellFormed p = true → decodeProgram (assemble p) = some (p.flatMap Line.expand)

/-- R95: the two pseudo-instructions, their expansions, and that there is no other. -/
def Obligations.PseudoInstructionsExpand : Prop :=
  Line.expand .cycle = [.readcomp, .gett, .getp, .geth] ∧ Line.expand .init = [.loadcal] ∧
  ∀ l : Line, l = .cycle ∨ l = .init ∨ ∃ i, l = .cmd i ∧ l.expand = [i]

/-- R89: the response format, and that every completed host command gives exactly one response;
`LOADCAL` and `READCOMP` answer no data. -/
def Obligations.EveryCommandGivesOneResponse : Prop :=
  (∀ r : Resp,
    (∀ d, r = .ok d → (Resp.encode r).extractLsb' 32 4 = 0#4 ∧ (Resp.encode r).extractLsb' 0 32 = d) ∧
    (∀ c, r = .ended c → (Resp.encode r).extractLsb' 32 4 = c.code ∧ (Resp.encode r).extractLsb' 0 32 = 0#32) ∧
    (Resp.encode r).extractLsb' 32 4 ≤ 6#4) ∧
  ([Cause.unavailable, .ioFailure, .notReady, .alreadyLoaded, .noReading, .illegalCmd].map Cause.code
    = [1#4, 2#4, 3#4, 4#4, 5#4, 6#4]) ∧
  ∀ (i : Instr) (s t : State), i.isHost = true → exec i s = .next t →
    ∃ r, t.responses = r :: s.responses ∧ (i = .loadcal ∨ i = .readcomp → r = .ok 0#32 ∨ ∃ c, r = .ended c)

/-! ### The step: port, sequencer, reset (R22, R160, R168, R200) -/

/-- Between commands, a legal byte at the port is taken and its command runs, as one step (R160; that
the step is the whole command is log 6, that the port is a list is log 8). -/
def Obligations.StepRunsTheAcceptedCommand : Prop :=
  ∀ (s : State) (b : Byte) (i : Instr) (rest : List PortEvent),
    s.active = none → s.port = .command b :: rest → decodeHost b = some i →
    step s = exec i { s with port := rest }

/-- Inside a command, the micro-operation at `UPC` runs, then the sequencer acts; no command byte at the
port is accepted (U3). The finer step is log 6, and what waits at the port is log 15. -/
def Obligations.StepRunsTheMicroOperationAtUpc : Prop :=
  ∀ (s : State) (a : Active) (i : Instr),
    s.active = some a → uopAt a = some i → (∀ rest, s.port ≠ .reset :: rest) →
    step s = andThen (exec i s) (sequencer i)

/-- R187: an illegal command byte sets `REFUSED` and `LAST_STATUS` (code 6), is answered, and changes
nothing else: no bus transaction, no register. -/
def Obligations.IllegalByteIsRefused : Prop :=
  Status.code (.ended .illegalCmd) = 6#4 ∧ ∀ (s : State) (b : Byte) (rest : List PortEvent),
    s.active = none → s.port = .command b :: rest → (b = 0x00#8 ∨ b = 0x03#8 ∨ 0x08#8 ≤ b) →
    step s = .next { s with
      port := rest
      refused := true
      lastStatus := .ended .illegalCmd
      responses := .ended .illegalCmd :: s.responses }

/-- With nothing at the port and no command in progress the block waits (R168; the waiting step is log 8). -/
def Obligations.IdleBlockWaits : Prop :=
  ∀ s : State, s.active = none → s.port = [] → step s = .next s

/-- R59, R201: the state after reset. -/
def Obligations.ResetStateHoldsNothing : Prop :=
  let s := State.reset
  s.ss = .uninitialized ∧ s.calValid = false ∧ s.rdValid = false ∧ s.pUnavail = false ∧ s.ioFail = false ∧
  s.refused = false ∧ s.lastStatus = .ok ∧ s.coeffs = none ∧ (∀ a, Memory.read s.calbuf a = none) ∧ s.burst = none ∧
  s.rawP = none ∧ s.rawT = none ∧ s.rawH = none ∧ s.tFine = none ∧ s.tempCenti = none ∧ s.pressPa = none ∧
  s.humQ10 = none ∧ s.active = none

/-- R200: reset puts the block into its initial state at any time; a command in progress is abandoned
without a response. That the port, the responses given and the environment stay is log 7. -/
def Obligations.ResetAbandonsTheCommand : Prop :=
  ∀ (s : State) (rest : List PortEvent), s.port = .reset :: rest →
    step s = .next { State.reset with
      port := rest
      responses := s.responses
      reads := s.reads
      bursts := s.bursts
      draws := s.draws
      busLog := s.busLog }

/-- R92, R22: the two microprograms; each micro-operation that completes advances `UPC` by 1 or, the
last one, ends the command with `OK`; only `CALFETCH` and `BURSTRD` (`IO_FAILURE`) and `COMPP`
(`UNAVAILABLE`) end it early. -/
def Obligations.MicroprogramAdvancesOrEnds : Prop :=
  microprogram .loadcal = [.calfetch, .caldec, .calcommit] ∧
  microprogram .readcomp = [.burstrd, .rawdec, .compt, .compp, .comph, .publish] ∧
  (∀ (c : SeqCmd) (s : State), (s.accept c).active = some ⟨c, 0⟩) ∧
  ∀ (s t : State) (a : Active) (i : Instr),
    s.active = some a → uopAt a = some i → andThen (exec i s) (sequencer i) = .next t →
    (t.active = some ⟨a.cmd, a.upc + 1⟩ ∧ t.responses = s.responses ∧ (uopAt ⟨a.cmd, a.upc + 1⟩).isSome = true) ∨
    (t.active = none ∧
      (t.responses = .ok 0#32 :: s.responses ∧ uopAt ⟨a.cmd, a.upc + 1⟩ = none ∨
        t.responses = .ended .ioFailure :: s.responses ∧ (i = .calfetch ∨ i = .burstrd) ∨
        t.responses = .ended .unavailable :: s.responses ∧ i = .compp))

/-- The headline of the sequencer: from the acceptance of `LOADCAL` or `READCOMP`, stepping the machine
micro-operation by micro-operation ends exactly where the command, run as one, ends (R92, R160; the two
ways to step are log 6). -/
def Obligations.SteppingTheMicroprogramIsTheCommand : Prop :=
  ∀ s : State, s.port = [] →
    (s.calValid = false → steps 3 (s.accept .loadcal) = exec .loadcal s) ∧
    (s.ss ≠ .uninitialized → steps 6 (s.accept .readcomp) = exec .readcomp s)

/-! ### The calibration (40_calibration.md) -/

/-- R69: the 32 calibration addresses, in ascending order. -/
def Obligations.CalibrationAddressesAscend : Prop :=
  Config.calAddrs.length = 32 ∧ Config.calAddrs.Pairwise (fun a b => a.toNat < b.toNat) ∧
  ∀ a : Addr, a ∈ Config.calAddrs ↔
    (0x88#8 ≤ a ∧ a ≤ 0x9F#8) ∨ a = 0xA1#8 ∨ (0xE1#8 ≤ a ∧ a ≤ 0xE7#8)

/-- R101: `CALFETCH` stores the 32 bytes and returns `Ok`; at the first `Fail` it returns `Fail`, the
bytes before it are stored and the addresses after it are not read. No flag is written. That `reads`,
`draws` and `busLog` say how the answers were taken is the model's, logs 3 and 5. -/
def Obligations.CalfetchReadsUntilFail : Prop :=
  ∀ (s : State) (img : Addr → Byte),
    ((∀ k (hk : k < Config.calAddrs.length), s.answerAt k = .ok (img Config.calAddrs[k])) →
      exec .calfetch s = .next { s with
        calbuf := storeAll img Config.calAddrs s.calbuf
        result := some .ok
        reads := s.reads.drop 32
        draws := s.draws + (32 - s.reads.length)
        busLog := (Config.calAddrs.map fun a => (⟨0x76#7, a, 1, true⟩ : Transaction)).reverse ++ s.busLog }) ∧
    ∀ n (hn : n < Config.calAddrs.length),
      (∀ k (hk : k < n), s.answerAt k = .ok (img Config.calAddrs[k])) → s.answerAt n = .fail →
      exec .calfetch s = .next { s with
        calbuf := storeAll img (Config.calAddrs.take n) s.calbuf
        result := some .fail
        reads := s.reads.drop (n + 1)
        draws := s.draws + (n + 1 - s.reads.length)
        busLog := ⟨0x76#7, Config.calAddrs[n], 1, false⟩ ::
          ((Config.calAddrs.take n).map fun a => (⟨0x76#7, a, 1, true⟩ : Transaction)).reverse ++ s.busLog }

/-- R42, R101: after a `CALFETCH` whose 32 reads succeed, every calibration address of `CALBUF` holds the
byte read from it and the buffer is complete; after one whose read number `n` fails, the `n` addresses
before it do; every other address reads as before, and the canonical form is kept. -/
def Obligations.CalfetchFillsTheBuffer : Prop :=
  ∀ (s : State) (img : Addr → Byte),
    ((∀ k (hk : k < Config.calAddrs.length), s.answerAt k = .ok (img Config.calAddrs[k])) →
      ∃ t, exec .calfetch s = .next t ∧ t.result = some .ok ∧
        (∀ a ∈ Config.calAddrs, Memory.read t.calbuf a.toNat = some (img a)) ∧
        (∀ x : Nat, (∀ a ∈ Config.calAddrs, x ≠ a.toNat) → Memory.read t.calbuf x = Memory.read s.calbuf x) ∧
        (Memory.wf s.calbuf → Memory.wf t.calbuf) ∧ Memory.complete t.calbuf = true) ∧
    ∀ n (hn : n < Config.calAddrs.length),
      (∀ k (hk : k < n), s.answerAt k = .ok (img Config.calAddrs[k])) → s.answerAt n = .fail →
      ∃ t, exec .calfetch s = .next t ∧ t.result = some .fail ∧
        (∀ a ∈ Config.calAddrs.take n, Memory.read t.calbuf a.toNat = some (img a)) ∧
        (∀ x : Nat, (∀ a ∈ Config.calAddrs.take n, x ≠ a.toNat) → Memory.read t.calbuf x = Memory.read s.calbuf x) ∧
        (Memory.wf s.calbuf → Memory.wf t.calbuf)

/-- R103 to R108: the six decode functions, as integers, with their worked examples. -/
def Obligations.DecodeFunctionsCompute : Prop :=
  (∀ lo hi : Byte, (decU16LE lo hi).toNat = hi.toNat * 256 + lo.toNat) ∧
  (∀ lo hi : Byte, (decS16LE lo hi).toInt =
    if hi.toNat * 256 + lo.toNat < 32768 then (hi.toNat * 256 + lo.toNat : Int)
    else (hi.toNat * 256 + lo.toNat : Int) - 65536) ∧
  (∀ b : Byte, (decU8 b).toNat = b.toNat) ∧
  (∀ b : Byte, (decS8 b).toInt = if b.toNat < 128 then (b.toNat : Int) else (b.toNat : Int) - 256) ∧
  (∀ a b : Byte, (decH4 a b).toNat = a.toNat * 16 + b.toNat % 16) ∧
  (∀ c b : Byte, (decH5 c b).toNat = c.toNat * 16 + b.toNat / 16) ∧
  decU16LE 0x70#8 0x6B#8 = 27504#32 ∧ decS16LE 0x18#8 0xFC#8 = wrap32 (-1000) ∧ decU8 0x4B#8 = 75#32 ∧
  decS8 0x1E#8 = 30#32 ∧ decS8 0x80#8 = wrap32 (-128) ∧ decH4 0x12#8 0x34#8 = 0x124#32 ∧ decH5 0x56#8 0x34#8 = 0x563#32

/-- R102, R109: `CALDEC` stages, for every row of the decode table, the decode function of the row's
bytes, read back normalised (R23); every complete image decodes, and nothing else changes. -/
def Obligations.CaldecStagesTheDecodeTable : Prop :=
  (∀ s : State, Memory.complete s.calbuf = true →
    exec .caldec s = .next { s with stg := some (decodeImage (Memory.image s.calbuf)) }) ∧
  ∀ img : Addr → Byte,
    let c := decodeImage img
    c.get .t1 = decU16LE (img 0x88#8) (img 0x89#8) ∧ c.get .t2 = decS16LE (img 0x8A#8) (img 0x8B#8) ∧
    c.get .t3 = decS16LE (img 0x8C#8) (img 0x8D#8) ∧ c.get .p1 = decU16LE (img 0x8E#8) (img 0x8F#8) ∧
    c.get .p2 = decS16LE (img 0x90#8) (img 0x91#8) ∧ c.get .p3 = decS16LE (img 0x92#8) (img 0x93#8) ∧
    c.get .p4 = decS16LE (img 0x94#8) (img 0x95#8) ∧ c.get .p5 = decS16LE (img 0x96#8) (img 0x97#8) ∧
    c.get .p6 = decS16LE (img 0x98#8) (img 0x99#8) ∧ c.get .p7 = decS16LE (img 0x9A#8) (img 0x9B#8) ∧
    c.get .p8 = decS16LE (img 0x9C#8) (img 0x9D#8) ∧ c.get .p9 = decS16LE (img 0x9E#8) (img 0x9F#8) ∧
    c.get .h1 = decU8 (img 0xA1#8) ∧ c.get .h2 = decS16LE (img 0xE1#8) (img 0xE2#8) ∧
    c.get .h3 = decU8 (img 0xE3#8) ∧ c.get .h4 = decH4 (img 0xE4#8) (img 0xE5#8) ∧
    c.get .h5 = decH5 (img 0xE6#8) (img 0xE5#8) ∧ c.get .h6 = decS8 (img 0xE7#8)

/-- R111 (the spec's own derivation): the map from images to coefficient files is onto the files with
12-bit H4 and H5, and every decoded file is one of them. -/
def Obligations.EveryCalibrationHasAnImage : Prop :=
  ∀ c : Coeffs, c.h4.toNat ≤ 4095 ∧ c.h5.toNat ≤ 4095 ↔ ∃ img : Addr → Byte, decodeImage img = c

/-- `CALCOMMIT` writes all 18 coefficient registers and `CAL_VALID`, and nothing else. -/
def Obligations.CalcommitWritesTheFile : Prop :=
  ∀ (s : State) (stg : Coeffs), s.stg = some stg →
    exec .calcommit s = .next { s with coeffs := some stg, calValid := true }

/-- R100: the whole of `LOADCAL`: refused once loaded; else, as the 32 reads go, loaded or failed. The
environment's fields are the model's (logs 3 and 5), as are the handed-on values (log 4). -/
def Obligations.LoadcalFollowsItsRule : Prop :=
  ∀ (s : State),
    (s.calValid = true →
      exec .loadcal s = .next { s with
        refused := true
        lastStatus := .ended .alreadyLoaded
        responses := .ended .alreadyLoaded :: s.responses }) ∧
    (s.calValid = false → ∀ img : Addr → Byte,
      ((∀ k (hk : k < Config.calAddrs.length), s.answerAt k = .ok (img Config.calAddrs[k])) →
        exec .loadcal s = .next { s with
          calbuf := storeAll img Config.calAddrs s.calbuf
          coeffs := some (decodeImage img)
          calValid := true
          ss := .ready
          lastStatus := .ok
          responses := .ok 0#32 :: s.responses
          active := none, result := none, stg := none, tc := none, pp := none, hh := none
          reads := s.reads.drop 32
          draws := s.draws + (32 - s.reads.length)
          busLog := (Config.calAddrs.map fun a => (⟨0x76#7, a, 1, true⟩ : Transaction)).reverse ++ s.busLog }) ∧
      ∀ n (hn : n < Config.calAddrs.length),
        (∀ k (hk : k < n), s.answerAt k = .ok (img Config.calAddrs[k])) → s.answerAt n = .fail →
        exec .loadcal s = .next { s with
          calbuf := storeAll img (Config.calAddrs.take n) s.calbuf
          ioFail := true
          lastStatus := .ended .ioFailure
          responses := .ended .ioFailure :: s.responses
          active := none, result := none, stg := none, tc := none, pp := none, hh := none
          reads := s.reads.drop (n + 1)
          draws := s.draws + (n + 1 - s.reads.length)
          busLog := ⟨0x76#7, Config.calAddrs[n], 1, false⟩ ::
            ((Config.calAddrs.take n).map fun a => (⟨0x76#7, a, 1, true⟩ : Transaction)).reverse ++ s.busLog })

/-! ### The raw sample (41_raw_sample.md) -/

/-- R120: `BURSTRD` makes one burst from `A_MEAS`; on `Fail`, `BURST` is not written. No flag is written.
The environment's fields are the model's (logs 3 and 5). -/
def Obligations.BurstrdMakesOneBurst : Prop :=
  ∀ s : State,
    (∀ b : Burst, s.nextBurst = .ok b →
      exec .burstrd s = .next { s with
        burst := some b
        result := some .ok
        bursts := s.bursts.tail
        draws := if s.bursts.isEmpty then s.draws + 1 else s.draws
        busLog := ⟨0x76#7, 0xF7#8, 8, true⟩ :: s.busLog }) ∧
    (s.nextBurst = .fail →
      exec .burstrd s = .next { s with
        result := some .fail
        bursts := s.bursts.tail
        draws := if s.bursts.isEmpty then s.draws + 1 else s.draws
        busLog := ⟨0x76#7, 0xF7#8, 8, false⟩ :: s.busLog })

/-- R121: `RAWDEC` writes the three raw registers from the one `BURST`, and nothing else; the low nibbles
of bytes 2 and 5 have no effect. -/
def Obligations.RawdecDecodesTheBurst : Prop :=
  ∀ (s : State) (b : Burst), s.burst = some b →
    ∃ (p t : BitVec 20) (h : BitVec 16),
      exec .rawdec s = .next { s with rawP := some p, rawT := some t, rawH := some h } ∧
      p.toNat = b.b0.toNat * 4096 + b.b1.toNat * 16 + b.b2.toNat / 16 ∧
      t.toNat = b.b3.toNat * 4096 + b.b4.toNat * 16 + b.b5.toNat / 16 ∧
      h.toNat = b.b6.toNat * 256 + b.b7.toNat

/-! ### The three compensation functions -/

/-- R130: `COMPT` writes `T_FINE` and hands on `temp_centi`, both as the rule's integers, and changes
nothing else. -/
def Obligations.ComptFollowsTheIntegerFormula : Prop :=
  ∀ (s : State) (raw : BitVec 20) (c : Coeffs), s.rawT = some raw → s.coeffs = some c →
    ∃ tc tf : Word,
      exec .compt s = .next { s with tFine := some tf, tc := some tc } ∧
      (tc.toInt, tf.toInt) = Ref.temp raw.toNat c.t1.toNat c.t2.toInt c.t3.toInt

/-- R140: `COMPP` hands on `press_pa` or `Unavailable` as the rule's integers, and changes nothing else. -/
def Obligations.ComppFollowsTheIntegerFormula : Prop :=
  ∀ (s : State) (raw : BitVec 20) (tf : Word) (c : Coeffs),
    s.rawP = some raw → s.tFine = some tf → s.coeffs = some c →
    ∃ r : Pressure, exec .compp s = .next { s with pp := some r } ∧
      match r, Ref.press raw.toNat tf.toInt c.p1.toNat c.p2.toInt c.p3.toInt c.p4.toInt c.p5.toInt c.p6.toInt
        c.p7.toInt c.p8.toInt c.p9.toInt with
      | .unavailable, none => True
      | .pascals p, some z => (p.toNat : Int) = z
      | _, _ => False

/-- R150: `COMPH` hands on `hum_q10` as the rule's integer, and changes nothing else. -/
def Obligations.ComphFollowsTheIntegerFormula : Prop :=
  ∀ (s : State) (raw : BitVec 16) (tf : Word) (c : Coeffs),
    s.rawH = some raw → s.tFine = some tf → s.coeffs = some c →
    ∃ h : Word, exec .comph s = .next { s with hh := some h } ∧
      (h.toNat : Int) = Ref.hum raw.toNat tf.toInt c.h1.toNat c.h2.toInt c.h3.toNat c.h4.toNat c.h5.toNat c.h6.toInt

/-- R141 (the spec's own derivation): the denominator is 0 exactly when P1 = 0, or P1 = 1 and `v1b` < 0;
`v1b` is in -8192 .. 8191; a negative denominator needs P1 >= 52431. -/
def Obligations.DenominatorIsZeroExactly : Prop :=
  ∀ (tf p2 p3 : Word) (p1 : BitVec 16),
    let v1b := pressV1b tf p2 p3
    let den := pressDen tf (zext32 16 p1) p2 p3
    (-8192 ≤ v1b.toInt ∧ v1b.toInt ≤ 8191) ∧
    (den = 0#32 ↔ p1 = 0#16 ∨ (p1 = 1#16 ∧ v1b.toInt < 0)) ∧
    (den.toInt < 0 → 52431 ≤ p1.toNat)

/-- R131 (the spec's own derivation): for |t_fine| < 2^28 the last line of R130 does not wrap. -/
def Obligations.TemperatureRoundsToNearest : Prop :=
  ∀ tf : Word, -268435456 < tf.toInt → tf.toInt < 268435456 →
    (tempCentiOf tf).toInt = (5 * tf.toInt + 128) / 256

/-- The clamp and the output range of `COMPH` for all operands: 0 below, 102400 above, and else the
pre-scale intermediate shifted by 12. -/
def Obligations.HumiditySaturates : Prop :=
  ∀ adcH tf h1 h2 h3 h4 h5 h6 : Word,
    let z2 := (humPre adcH tf h1 h2 h3 h4 h5 h6).toInt
    let out := compH adcH tf h1 h2 h3 h4 h5 h6
    out.toNat ≤ 102400 ∧ (z2 < 0 → out = 0#32) ∧ (z2 ≥ 419430400 → out = 102400#32) ∧
    (0 ≤ z2 → z2 ≤ 419430400 → (out.toNat : Int) = z2 / 4096)

/-- R152 (the spec's own derivation): in `COMPH` an unsigned and a sign-extended 12-bit H4 cannot be told
apart; for H5 = 2048 and H5 = -2048 the spec's operands tell them apart. -/
def Obligations.H4SignIsUnobservable : Prop :=
  (∀ (h : BitVec 12) (adcH tf h1 h2 h3 h5 h6 : Word),
    compH adcH tf h1 h2 h3 (h.setWidth 32) h5 h6 = compH adcH tf h1 h2 h3 (h.signExtend 32) h5 h6) ∧
  compH 30281#32 128422#32 75#32 367#32 0#32 301#32 2048#32 30#32 = 26675#32 ∧
  compH 30281#32 128422#32 75#32 367#32 0#32 301#32 (wrap32 (-2048)) 30#32 = 101023#32

/-- Monotonicity is no law: it fails for (T1, T2, T3) = (0, 0, 1), where a larger raw value gives a
smaller temperature. -/
def Obligations.MonotonicityFailsForSomeCalibration : Prop :=
  ∃ (a b : BitVec 20) (t1 t2 t3 : BitVec 16), a < b ∧
    (compT (zext32 20 b) (zext32 16 t1) (sext32 16 t2) (sext32 16 t3)).1.toInt <
      (compT (zext32 20 a) (zext32 16 t1) (sext32 16 t2) (sext32 16 t3)).1.toInt

/-- R133, the exhaustive claim: with T = (27504, 26435, -1000), temperature and `t_fine` are
non-decreasing in the raw value, over all 2^20 values. -/
def Obligations.MonotonicityHoldsForTheExample : Prop :=
  ∀ a b : BitVec 20, a ≤ b →
    (compT (zext32 20 a) 27504#32 26435#32 (wrap32 (-1000))).1.toInt ≤
      (compT (zext32 20 b) 27504#32 26435#32 (wrap32 (-1000))).1.toInt ∧
    (compT (zext32 20 a) 27504#32 26435#32 (wrap32 (-1000))).2.toInt ≤
      (compT (zext32 20 b) 27504#32 26435#32 (wrap32 (-1000))).2.toInt

/-- The three functions read their own coefficients only: T1 to T3, P1 to P9, H1 to H6. -/
def Obligations.CompensationReadsItsOwnCoefficients : Prop :=
  ∀ (c d : Coeffs) (b : Burst),
    (c.t1 = d.t1 → c.t2 = d.t2 → c.t3 = d.t3 → cycleT b c = cycleT b d) ∧
    (∀ (raw : BitVec 20) (tf : Word),
      c.p1 = d.p1 → c.p2 = d.p2 → c.p3 = d.p3 → c.p4 = d.p4 → c.p5 = d.p5 → c.p6 = d.p6 → c.p7 = d.p7 →
      c.p8 = d.p8 → c.p9 = d.p9 → compPOf raw tf c = compPOf raw tf d) ∧
    (∀ (raw : BitVec 16) (tf : Word),
      c.h1 = d.h1 → c.h2 = d.h2 → c.h3 = d.h3 → c.h4 = d.h4 → c.h5 = d.h5 → c.h6 = d.h6 →
      compHOf raw tf c = compHOf raw tf d)

/-! ### The session (45_session.md) -/

/-- `PUBLISH` writes the three published registers and `RD_VALID` in one step, and nothing else. -/
def Obligations.PublishWritesTheReading : Prop :=
  ∀ (s : State) (tc p hh : Word), s.tc = some tc → s.pp = some (.pascals p) → s.hh = some hh →
    exec .publish s = .next { s with tempCenti := some tc, pressPa := some p, humQ10 := some hh, rdValid := true }

/-- R162: the whole of `READCOMP`: refused in `Uninitialized`; else, as the burst and the denominator
go, failed, unavailable or published. The environment's fields are the model's (logs 3 and 5), as are
the handed-on values (log 4). -/
def Obligations.ReadcompFollowsItsRule : Prop :=
  ∀ (s : State),
    (s.ss = .uninitialized →
      exec .readcomp s = .next { s with
        refused := true
        lastStatus := .ended .notReady
        responses := .ended .notReady :: s.responses }) ∧
    (s.ss ≠ .uninitialized → s.nextBurst = .fail →
      exec .readcomp s = .next { s with
        ioFail := true
        lastStatus := .ended .ioFailure
        ss := .ready
        responses := .ended .ioFailure :: s.responses
        active := none, result := none, stg := none, tc := none, pp := none, hh := none
        bursts := s.bursts.tail
        draws := if s.bursts.isEmpty then s.draws + 1 else s.draws
        busLog := ⟨0x76#7, 0xF7#8, 8, false⟩ :: s.busLog }) ∧
    (s.ss ≠ .uninitialized → ∀ (b : Burst) (c : Coeffs), s.nextBurst = .ok b → s.coeffs = some c →
      (cycleP b c = .unavailable →
        exec .readcomp s = .next { s with
          burst := some b, rawP := some (burstP b), rawT := some (burstT b), rawH := some (burstH b)
          tFine := some (cycleT b c).2
          pUnavail := true
          lastStatus := .ended .unavailable
          ss := .ready
          responses := .ended .unavailable :: s.responses
          active := none, result := none, stg := none, tc := none, pp := none, hh := none
          bursts := s.bursts.tail
          draws := if s.bursts.isEmpty then s.draws + 1 else s.draws
          busLog := ⟨0x76#7, 0xF7#8, 8, true⟩ :: s.busLog }) ∧
      ∀ p : Word, cycleP b c = .pascals p →
        exec .readcomp s = .next { s with
          burst := some b, rawP := some (burstP b), rawT := some (burstT b), rawH := some (burstH b)
          tFine := some (cycleT b c).2
          tempCenti := some (cycleT b c).1
          pressPa := some p
          humQ10 := some (cycleH b c)
          rdValid := true
          pUnavail := false
          lastStatus := .ok
          ss := .ready
          responses := .ok 0#32 :: s.responses
          active := none, result := none, stg := none, tc := none, pp := none, hh := none
          bursts := s.bursts.tail
          draws := if s.bursts.isEmpty then s.draws + 1 else s.draws
          busLog := ⟨0x76#7, 0xF7#8, 8, true⟩ :: s.busLog })

/-- R164 to R166, R186: the accessors answer their register while `RD_VALID` is 1 and refuse with
`NO_READING` (code 5) otherwise; nothing else changes. -/
def Obligations.AccessorsAnswerOrRefuse : Prop :=
  Status.code .ok = 0#4 ∧ Status.code (.ended .noReading) = 5#4 ∧ ∀ s : State,
    (s.rdValid = true →
      (∀ d, s.tempCenti = some d →
        exec .gett s = .next { s with lastStatus := .ok, responses := .ok d :: s.responses }) ∧
      (∀ d, s.pressPa = some d →
        exec .getp s = .next { s with lastStatus := .ok, responses := .ok d :: s.responses }) ∧
      (∀ d, s.humQ10 = some d →
        exec .geth s = .next { s with lastStatus := .ok, responses := .ok d :: s.responses })) ∧
    (s.rdValid = false → ∀ i : Instr, i = .gett ∨ i = .getp ∨ i = .geth →
      exec i s = .next { s with
        refused := true
        lastStatus := .ended .noReading
        responses := .ended .noReading :: s.responses })

/-- R167: `GETSTAT` answers `STATUS` in every state and changes no state. -/
def Obligations.GetstatAnswersTheStatus : Prop :=
  (∀ s : State, exec .getstat s = .next { s with responses := .ok s.statusWord :: s.responses }) ∧
  State.reset.statusWord = 0x00000000#32

/-- R52: every field of the `STATUS` view is the flag or register it names, with the session state codes
0 to 4 of R21. -/
def Obligations.StatusViewLayout : Prop :=
  ([SessionState.uninitialized, .calibrationLoaded, .ready, .readRaw, .compensate].map SessionState.code
    = [0#3, 1#3, 2#3, 3#3, 4#3]) ∧
  (∀ s : State,
    let w := s.statusWord
    w.extractLsb' 0 3 = s.ss.code ∧ w.getLsbD 3 = s.calValid ∧ w.getLsbD 4 = s.rdValid ∧
    w.getLsbD 5 = s.pUnavail ∧ w.getLsbD 6 = s.ioFail ∧ w.getLsbD 7 = s.refused ∧
    w.extractLsb' 8 4 = s.lastStatus.code ∧ w.extractLsb' 12 20 = 0#20) ∧
  State.reset.statusWord = 0#32

/-- R161: the table of the session state machine. The first part says what each host command does to
`SS` between commands; the second, what each micro-operation of `READCOMP` does inside it. -/
def Obligations.SessionStateFollowsTheTable : Prop :=
  (∀ s t : State, s.active = none → s.Inv →
    (exec .loadcal s = .next t → s.ss = .uninitialized →
      t.ss = .ready ∧ t.responses = .ok 0#32 :: s.responses ∨
      t.ss = .uninitialized ∧ t.responses = .ended .ioFailure :: s.responses) ∧
    (exec .loadcal s = .next t → s.ss = .ready →
      t.ss = .ready ∧ t.responses = .ended .alreadyLoaded :: s.responses) ∧
    (exec .readcomp s = .next t → s.ss = .uninitialized →
      t.ss = .uninitialized ∧ t.responses = .ended .notReady :: s.responses) ∧
    (exec .readcomp s = .next t → s.ss = .ready →
      t.ss = .ready ∧ (t.responses = .ok 0#32 :: s.responses ∨ t.responses = .ended .ioFailure :: s.responses ∨
        t.responses = .ended .unavailable :: s.responses)) ∧
    (∀ i : Instr, i = .gett ∨ i = .getp ∨ i = .geth ∨ i = .getstat → exec i s = .next t → t.ss = s.ss)) ∧
  (∀ s : State, (s.accept .readcomp).ss = .readRaw ∧ (illegalCommand s).ss = s.ss ∧ s.applyReset.ss = .uninitialized) ∧
  (∀ (s t : State) (i : Instr), andThen (exec i s) (sequencer i) = .next t →
    (i = .burstrd → t.ss = s.ss ∧ t.responses = s.responses ∨
      t.ss = .ready ∧ t.responses = .ended .ioFailure :: s.responses) ∧
    (i = .rawdec → t.ss = .compensate) ∧
    (i = .compp → t.ss = s.ss ∧ t.responses = s.responses ∨
      t.ss = .ready ∧ t.responses = .ended .unavailable :: s.responses) ∧
    (i = .publish → t.ss = .ready ∧ t.responses = .ok 0#32 :: s.responses) ∧
    (i = .compt ∨ i = .comph → t.ss = s.ss))

/-- R169 (the spec's own derivation): with one coefficient file, two cycles that receive the same burst
end alike and, if they end `OK`, publish the same triple. -/
def Obligations.SameBurstGivesTheSameReading : Prop :=
  ∀ (s s' t t' : State) (b : Burst),
    s.coeffs = s'.coeffs → s.ss ≠ .uninitialized → s'.ss ≠ .uninitialized →
    s.nextBurst = .ok b → s'.nextBurst = .ok b →
    exec .readcomp s = .next t → exec .readcomp s' = .next t' →
    t.lastStatus = t'.lastStatus ∧ t.tFine = t'.tFine ∧ t.rawP = t'.rawP ∧ t.rawT = t'.rawT ∧ t.rawH = t'.rawH ∧
    (t.lastStatus = .ok → t.tempCenti = t'.tempCenti ∧ t.pressPa = t'.pressPa ∧ t.humQ10 = t'.humQ10) ∧
    (t.lastStatus ≠ .ok → t.tempCenti = s.tempCenti ∧ t.pressPa = s.pressPa ∧ t.humQ10 = s.humQ10)

/-- R208 (the spec's own derivation): after a cycle that ends `UNAVAILABLE` or `IO_FAILURE` the accessors
still answer the last published reading with status `OK`. -/
def Obligations.FailedCycleLeavesTheReading : Prop :=
  ∀ (s t : State) (c : Cause) (d p h : Word),
    s.rdValid = true → s.tempCenti = some d → s.pressPa = some p → s.humQ10 = some h →
    exec .readcomp s = .next t → t.lastStatus = .ended c →
    exec .gett t = .next { t with lastStatus := .ok, responses := .ok d :: t.responses } ∧
    exec .getp t = .next { t with lastStatus := .ok, responses := .ok p :: t.responses } ∧
    exec .geth t = .next { t with lastStatus := .ok, responses := .ok h :: t.responses }

/-! ### Endings and flags (60_exceptions.md, 10_state.md) -/

/-- R180: every way a command ends other than `OK`: which command raises it and what is recorded, and
that no other flag is touched. -/
def Obligations.NonOkEndingsRecordOneFlag : Prop :=
  (∀ (i : Instr) (s t : State) (c : Cause), exec i s = .next t → t.responses = .ended c :: s.responses →
    t.lastStatus = .ended c ∧
    (c = .unavailable → i = .readcomp ∧ t.pUnavail = true ∧ t.ioFail = s.ioFail ∧ t.refused = s.refused) ∧
    (c = .ioFailure → (i = .loadcal ∨ i = .readcomp) ∧ t.ioFail = true ∧ t.pUnavail = s.pUnavail ∧
      t.refused = s.refused) ∧
    (c = .notReady → i = .readcomp ∧ s.ss = .uninitialized) ∧
    (c = .alreadyLoaded → i = .loadcal ∧ s.calValid = true) ∧
    (c = .noReading → (i = .gett ∨ i = .getp ∨ i = .geth) ∧ s.rdValid = false) ∧
    (c = .notReady ∨ c = .alreadyLoaded ∨ c = .noReading →
      t.refused = true ∧ t.ioFail = s.ioFail ∧ t.pUnavail = s.pUnavail) ∧
    c ≠ .illegalCmd) ∧
  ∀ s : State, (illegalCommand s).refused = true ∧ (illegalCommand s).lastStatus = .ended .illegalCmd ∧
    (illegalCommand s).ioFail = s.ioFail ∧ (illegalCommand s).pUnavail = s.pUnavail

/-- R55: `P_UNAVAIL` is set by a `READCOMP` that ends `UNAVAILABLE`, cleared by one that ends `OK`, and
unchanged by everything else. First for a command run as one, then for every step but a reset, so also
for a `READCOMP` that ends at one of its micro-operations. -/
def Obligations.PUnavailFollowsTheLastCycle : Prop :=
  State.reset.pUnavail = false ∧
  (∀ (i : Instr) (s t : State), exec i s = .next t →
    (i = .readcomp → t.lastStatus = .ended .unavailable → t.pUnavail = true) ∧
    (i = .readcomp → t.lastStatus = .ok → t.pUnavail = false) ∧
    (i = .readcomp → t.lastStatus ≠ .ended .unavailable → t.lastStatus ≠ .ok → t.pUnavail = s.pUnavail) ∧
    (i ≠ .readcomp → t.pUnavail = s.pUnavail) ∧ (illegalCommand s).pUnavail = s.pUnavail) ∧
  ∀ s t : State, step s = .next t → (∀ rest, s.port ≠ .reset :: rest) →
    (s.atCycle → t.responses = .ended .unavailable :: s.responses → t.pUnavail = true) ∧
    (s.atCycle → ∀ d, t.responses = .ok d :: s.responses → t.pUnavail = false) ∧
    (t.responses ≠ .ended .unavailable :: s.responses → (∀ d, t.responses ≠ .ok d :: s.responses) →
      t.pUnavail = s.pUnavail) ∧
    (¬ s.atCycle → t.pUnavail = s.pUnavail)

/-- R56, R57: `IOFAIL` and `REFUSED` are set by the endings they name and no step but reset clears them. -/
def Obligations.StickyFlagsStay : Prop :=
  (State.reset.ioFail = false ∧ State.reset.refused = false) ∧
  ∀ s t : State, step s = .next t → (∀ rest, s.port ≠ .reset :: rest) →
    (s.ioFail = true → t.ioFail = true) ∧ (s.refused = true → t.refused = true) ∧
    (t.responses = .ended .ioFailure :: s.responses → t.ioFail = true) ∧
    (∀ c, t.responses = .ended c :: s.responses → c ≠ .ioFailure → c ≠ .unavailable → t.refused = true) ∧
    (t.ioFail ≠ s.ioFail → t.responses = .ended .ioFailure :: s.responses) ∧
    (t.refused ≠ s.refused → ∃ c, t.responses = .ended c :: s.responses ∧ c ≠ .ioFailure ∧ c ≠ .unavailable)

/-- R58: `LAST_STATUS` is the status of the host command just completed; `GETSTAT` does not change it.
First for a command run as one, then for every step but a reset, so also for a command that ends at one
of its micro-operations; a step that completes no command leaves it. -/
def Obligations.LastStatusIsTheLastResponse : Prop :=
  State.reset.lastStatus = .ok ∧ Status.code .ok = 0#4 ∧
  (∀ s t : State, exec .getstat s = .next t → t.lastStatus = s.lastStatus) ∧
  (∀ s : State, (illegalCommand s).lastStatus = .ended .illegalCmd ∧
    (illegalCommand s).responses = .ended .illegalCmd :: s.responses) ∧
  (∀ (i : Instr) (s t : State), i.isHost = true → i ≠ .getstat → exec i s = .next t →
    (∃ d, t.responses = .ok d :: s.responses ∧ t.lastStatus = .ok) ∨
    (∃ c, t.responses = .ended c :: s.responses ∧ t.lastStatus = .ended c)) ∧
  ∀ s t : State, step s = .next t → (∀ rest, s.port ≠ .reset :: rest) →
    (s.atGetstat → t.lastStatus = s.lastStatus) ∧
    (¬ s.atGetstat →
      (t.responses = s.responses ∧ t.lastStatus = s.lastStatus) ∨
      (∃ d, t.responses = .ok d :: s.responses ∧ t.lastStatus = .ok) ∨
      (∃ c, t.responses = .ended c :: s.responses ∧ t.lastStatus = .ended c))

/-- A `MemRead` that is never answered leaves no next state: the operations that read the bus stop by
name (R209; the stop is log 10). -/
def Obligations.UnansweredReadHasNoNextState : Prop :=
  ∀ s : State,
    (∀ (img : Addr → Byte) n (hn : n < Config.calAddrs.length),
      (∀ k (hk : k < n), s.answerAt k = .ok (img Config.calAddrs[k])) → s.answerAt n = .silent →
      exec .calfetch s = .fault .unansweredRead ∧ (s.calValid = false → exec .loadcal s = .fault .unansweredRead)) ∧
    (s.nextBurst = .silent →
      exec .burstrd s = .fault .unansweredRead ∧
      (s.ss ≠ .uninitialized → exec .readcomp s = .fault .unansweredRead))

/-- R20, U5, U8: where an operand register holds no value, the operation stops by that register's name,
and a sequencer that stands at no micro-operation stops. `OnlyAnUnansweredReadStops` says that no
state the invariant allows gets here. The faults are log 1 (registers), log 4 (handed-on values) and
log 16 (sequencer). That `PUBLISH` on a held `Unavailable` is such a stop is the model's choice, log 20:
R15 calls `Unavailable` a value, and R163 gives `PUBLISH` no form that takes it. -/
def Obligations.MissingOperandStopsByName : Prop :=
  ∀ s : State,
    (s.rdValid = true →
      (s.tempCenti = none → exec .gett s = .fault (.readOfNoValue .tempCenti)) ∧
      (s.pressPa = none → exec .getp s = .fault (.readOfNoValue .pressPa)) ∧
      (s.humQ10 = none → exec .geth s = .fault (.readOfNoValue .humQ10))) ∧
    (Memory.complete s.calbuf = false → exec .caldec s = .fault (.readOfNoValue .calbuf)) ∧
    (s.stg = none → exec .calcommit s = .fault (.readOfNoValue .stg)) ∧
    (s.burst = none → exec .rawdec s = .fault (.readOfNoValue .burst)) ∧
    (s.rawT = none → exec .compt s = .fault (.readOfNoValue .rawT)) ∧
    (s.rawT ≠ none → s.coeffs = none → exec .compt s = .fault (.readOfNoValue .coefficients)) ∧
    (s.rawP = none → exec .compp s = .fault (.readOfNoValue .rawP)) ∧
    (s.rawP ≠ none → s.tFine = none → exec .compp s = .fault (.readOfNoValue .tFine)) ∧
    (s.rawP ≠ none → s.tFine ≠ none → s.coeffs = none → exec .compp s = .fault (.readOfNoValue .coefficients)) ∧
    (s.rawH = none → exec .comph s = .fault (.readOfNoValue .rawH)) ∧
    (s.rawH ≠ none → s.tFine = none → exec .comph s = .fault (.readOfNoValue .tFine)) ∧
    (s.rawH ≠ none → s.tFine ≠ none → s.coeffs = none → exec .comph s = .fault (.readOfNoValue .coefficients)) ∧
    (s.tc = none → exec .publish s = .fault (.readOfNoValue .tc)) ∧
    (s.tc ≠ none → s.pp = none ∨ s.pp = some .unavailable → exec .publish s = .fault (.readOfNoValue .pp)) ∧
    (s.tc ≠ none → (∃ p, s.pp = some (.pascals p)) → s.hh = none → exec .publish s = .fault (.readOfNoValue .hh)) ∧
    (∀ b : Burst, s.ss ≠ .uninitialized → s.nextBurst = .ok b → s.coeffs = none →
      exec .readcomp s = .fault (.readOfNoValue .coefficients)) ∧
    (∀ a : Active, s.active = some a → uopAt a = none → (∀ rest, s.port ≠ .reset :: rest) →
      step s = .fault .noMicroOperation)

/-! ### Whole-machine rules -/

/-- Each register is written by the operations its rule names and by no other (10_state.md). -/
def Obligations.RegistersHaveTheirWriters : Prop :=
  ∀ (i : Instr) (s t : State), exec i s = .next t →
    (i ≠ .calcommit → i ≠ .loadcal → t.coeffs = s.coeffs ∧ t.calValid = s.calValid) ∧
    (i ≠ .calfetch → i ≠ .loadcal → t.calbuf = s.calbuf ∧ t.reads = s.reads) ∧
    (i ≠ .burstrd → i ≠ .readcomp → t.burst = s.burst ∧ t.bursts = s.bursts) ∧
    (i ≠ .rawdec → i ≠ .readcomp → t.rawP = s.rawP ∧ t.rawT = s.rawT ∧ t.rawH = s.rawH) ∧
    (i ≠ .compt → i ≠ .readcomp → t.tFine = s.tFine) ∧
    (i ≠ .publish → i ≠ .readcomp →
      t.tempCenti = s.tempCenti ∧ t.pressPa = s.pressPa ∧ t.humQ10 = s.humQ10 ∧ t.rdValid = s.rdValid) ∧
    (i ≠ .loadcal → i ≠ .readcomp → t.ss = s.ss) ∧
    (i.isUop = true → t.lastStatus = s.lastStatus ∧ t.ioFail = s.ioFail ∧ t.refused = s.refused ∧
      t.pUnavail = s.pUnavail ∧ t.responses = s.responses ∧ t.active = s.active) ∧
    t.port = s.port

/-- What each host command puts on the bus (R68, R69, R120, R189): a refused command and the accessors
nothing, an admitted `READCOMP` one burst, an admitted `LOADCAL` single-byte reads of the first
addresses in order, all of them successful but perhaps the last. The record `busLog` is log 5. -/
def Obligations.BusTrafficOfEachCommand : Prop :=
  ∀ (i : Instr) (s t : State), exec i s = .next t →
    (i = .gett ∨ i = .getp ∨ i = .geth ∨ i = .getstat → t.busLog = s.busLog) ∧
    (i = .readcomp → s.ss = .uninitialized → t.busLog = s.busLog) ∧
    (i = .readcomp → s.ss ≠ .uninitialized →
      ∃ ok : Bool, t.busLog = ⟨0x76#7, 0xF7#8, 8, ok⟩ :: s.busLog ∧ (ok = false ↔ t.lastStatus = .ended .ioFailure)) ∧
    (i = .loadcal → s.calValid = true → t.busLog = s.busLog) ∧
    (i = .loadcal → s.calValid = false →
      t.lastStatus = .ok ∧
        t.busLog = (Config.calAddrs.map fun a => (⟨0x76#7, a, 1, true⟩ : Transaction)).reverse ++ s.busLog ∨
      t.lastStatus = .ended .ioFailure ∧ ∃ n, ∃ hn : n < Config.calAddrs.length,
        t.busLog = ⟨0x76#7, Config.calAddrs[n], 1, false⟩ ::
          ((Config.calAddrs.take n).map fun a => (⟨0x76#7, a, 1, true⟩ : Transaction)).reverse ++ s.busLog)

/-- R112: once loaded, the coefficient file does not change until reset, whatever step is taken. The
invariant rules out states that no run reaches (a `LOADCAL` in progress after the load). -/
def Obligations.CoefficientsAreImmutable : Prop :=
  ∀ s t : State, s.Inv → s.calValid = true → (∀ rest, s.port ≠ .reset :: rest) → step s = .next t →
    t.coeffs = s.coeffs ∧ t.calValid = true

/-- The invariant holds after reset. -/
def Obligations.ResetSatisfiesTheInvariant : Prop := State.reset.Inv

/-- Every step keeps the invariant: the buffer's canonical form, `CAL_VALID` and `RD_VALID` as the marks
of what holds a value, 12-bit H4 and H5, one coherent published triple, and the place of the machine
in its session and microprogram. -/
def Obligations.StepKeepsTheInvariant : Prop :=
  ∀ s t : State, s.Inv → step s = .next t → t.Inv

/-- From a state that meets the invariant no step reads a register that holds no value, loses its
microprogram or is refused (R20): the one stop there is, is a bus read that is never answered. -/
def Obligations.OnlyAnUnansweredReadStops : Prop :=
  ∀ s : State, s.Inv → (∃ t, step s = .next t) ∨ step s = .fault .unansweredRead
end

