-- ==== Sys2Proof/Laws/Arith.lean ====
section
/-! SUPPORT. Each arithmetic primitive read as an integer, once: what the statements about the
compensation functions need of R7 to R12. -/

namespace Sys2Proof.Machine

theorem add32_toInt (a b : Word) : (add32 a b).toInt = (a.toInt + b.toInt).bmod (2 ^ 32) := BitVec.toInt_add a b

theorem sub32_toInt (a b : Word) : (sub32 a b).toInt = (a.toInt - b.toInt).bmod (2 ^ 32) := BitVec.toInt_sub

theorem mul32_toInt (a b : Word) : (mul32 a b).toInt = (a.toInt * b.toInt).bmod (2 ^ 32) := BitVec.toInt_mul a b

theorem shl32_toInt (a : Word) (n : Nat) : (shl32 a n).toInt = (a.toNat * 2 ^ n : Int).bmod (2 ^ 32) := by
  rw [shl32, BitVec.toInt_shiftLeft, Nat.shiftLeft_eq]
  push_cast
  rfl

theorem asr32_toInt (a : Word) (n : Nat) : (asr32 a n).toInt = a.toInt / 2 ^ n := by
  simp [asr32, BitVec.toInt_sshiftRight, Int.shiftRight_eq_div_pow]

theorem lsr32_toNat (u : Word) (n : Nat) : (lsr32 u n).toNat = u.toNat >>> n := BitVec.toNat_ushiftRight u n

theorem udiv32_toNat (u d : Word) : (udiv32 u d).toNat = u.toNat / d.toNat := BitVec.toNat_udiv

theorem lts32_iff (a b : Word) : lts32 a b = true ↔ a.toInt < b.toInt := by simp [lts32, BitVec.slt_eq_decide]

theorem ltu32_iff (a b : Word) : ltu32 a b = true ↔ a.toNat < b.toNat := by simp [ltu32, BitVec.ult_eq_decide]

/-- A zero-extended value of fewer than 32 bits reads as itself. -/
theorem zext32_toInt {n : Nat} (hn : n < 32) (v : BitVec n) : (zext32 n v).toInt = v.toNat := by
  have hv := v.isLt
  have hp : 2 ^ n ≤ 2 ^ 31 := Nat.pow_le_pow_right (by decide) (by omega)
  rw [zext32, BitVec.toInt_setWidth, Int.bmod_eq_of_le]
  all_goals norm_num
  all_goals omega

/-- A sign-extended value reads as itself. -/
theorem sext32_toInt {n : Nat} (hn : n ≤ 32) (v : BitVec n) : (sext32 n v).toInt = v.toInt := by
  rw [sext32, BitVec.toInt_signExtend_of_le hn]

end Sys2Proof.Machine
end

