-- ==== Sys2Proof/Laws/State.lean ====
section
/-! SUPPORT. One lemma per field per named update of the state, each true by `rfl` (for `record` and
`raise`, after a case split on the cause). -/

namespace Sys2Proof.Machine

variable (s : State)

@[simp] theorem State.succeed_ss (d : Word) : (s.succeed d).ss = s.ss := rfl
@[simp] theorem State.succeed_coeffs (d : Word) : (s.succeed d).coeffs = s.coeffs := rfl
@[simp] theorem State.succeed_calbuf (d : Word) : (s.succeed d).calbuf = s.calbuf := rfl
@[simp] theorem State.succeed_burst (d : Word) : (s.succeed d).burst = s.burst := rfl
@[simp] theorem State.succeed_rawP (d : Word) : (s.succeed d).rawP = s.rawP := rfl
@[simp] theorem State.succeed_rawT (d : Word) : (s.succeed d).rawT = s.rawT := rfl
@[simp] theorem State.succeed_rawH (d : Word) : (s.succeed d).rawH = s.rawH := rfl
@[simp] theorem State.succeed_tFine (d : Word) : (s.succeed d).tFine = s.tFine := rfl
@[simp] theorem State.succeed_tempCenti (d : Word) : (s.succeed d).tempCenti = s.tempCenti := rfl
@[simp] theorem State.succeed_pressPa (d : Word) : (s.succeed d).pressPa = s.pressPa := rfl
@[simp] theorem State.succeed_humQ10 (d : Word) : (s.succeed d).humQ10 = s.humQ10 := rfl
@[simp] theorem State.succeed_calValid (d : Word) : (s.succeed d).calValid = s.calValid := rfl
@[simp] theorem State.succeed_rdValid (d : Word) : (s.succeed d).rdValid = s.rdValid := rfl
@[simp] theorem State.succeed_pUnavail (d : Word) : (s.succeed d).pUnavail = s.pUnavail := rfl
@[simp] theorem State.succeed_ioFail (d : Word) : (s.succeed d).ioFail = s.ioFail := rfl
@[simp] theorem State.succeed_refused (d : Word) : (s.succeed d).refused = s.refused := rfl
@[simp] theorem State.succeed_lastStatus (d : Word) : (s.succeed d).lastStatus = .ok := rfl
@[simp] theorem State.succeed_active (d : Word) : (s.succeed d).active = s.active := rfl
@[simp] theorem State.succeed_result (d : Word) : (s.succeed d).result = s.result := rfl
@[simp] theorem State.succeed_stg (d : Word) : (s.succeed d).stg = s.stg := rfl
@[simp] theorem State.succeed_tc (d : Word) : (s.succeed d).tc = s.tc := rfl
@[simp] theorem State.succeed_pp (d : Word) : (s.succeed d).pp = s.pp := rfl
@[simp] theorem State.succeed_hh (d : Word) : (s.succeed d).hh = s.hh := rfl
@[simp] theorem State.succeed_port (d : Word) : (s.succeed d).port = s.port := rfl
@[simp] theorem State.succeed_responses (d : Word) : (s.succeed d).responses = .ok d :: s.responses := rfl
@[simp] theorem State.succeed_reads (d : Word) : (s.succeed d).reads = s.reads := rfl
@[simp] theorem State.succeed_bursts (d : Word) : (s.succeed d).bursts = s.bursts := rfl
@[simp] theorem State.succeed_draws (d : Word) : (s.succeed d).draws = s.draws := rfl
@[simp] theorem State.succeed_busLog (d : Word) : (s.succeed d).busLog = s.busLog := rfl

@[simp] theorem State.accept_coeffs (c : SeqCmd) : (s.accept c).coeffs = s.coeffs := rfl
@[simp] theorem State.accept_calbuf (c : SeqCmd) : (s.accept c).calbuf = s.calbuf := rfl
@[simp] theorem State.accept_burst (c : SeqCmd) : (s.accept c).burst = s.burst := rfl
@[simp] theorem State.accept_rawP (c : SeqCmd) : (s.accept c).rawP = s.rawP := rfl
@[simp] theorem State.accept_rawT (c : SeqCmd) : (s.accept c).rawT = s.rawT := rfl
@[simp] theorem State.accept_rawH (c : SeqCmd) : (s.accept c).rawH = s.rawH := rfl
@[simp] theorem State.accept_tFine (c : SeqCmd) : (s.accept c).tFine = s.tFine := rfl
@[simp] theorem State.accept_tempCenti (c : SeqCmd) : (s.accept c).tempCenti = s.tempCenti := rfl
@[simp] theorem State.accept_pressPa (c : SeqCmd) : (s.accept c).pressPa = s.pressPa := rfl
@[simp] theorem State.accept_humQ10 (c : SeqCmd) : (s.accept c).humQ10 = s.humQ10 := rfl
@[simp] theorem State.accept_calValid (c : SeqCmd) : (s.accept c).calValid = s.calValid := rfl
@[simp] theorem State.accept_rdValid (c : SeqCmd) : (s.accept c).rdValid = s.rdValid := rfl
@[simp] theorem State.accept_pUnavail (c : SeqCmd) : (s.accept c).pUnavail = s.pUnavail := rfl
@[simp] theorem State.accept_ioFail (c : SeqCmd) : (s.accept c).ioFail = s.ioFail := rfl
@[simp] theorem State.accept_refused (c : SeqCmd) : (s.accept c).refused = s.refused := rfl
@[simp] theorem State.accept_lastStatus (c : SeqCmd) : (s.accept c).lastStatus = s.lastStatus := rfl
@[simp] theorem State.accept_active (c : SeqCmd) : (s.accept c).active = some ⟨c, 0⟩ := rfl
@[simp] theorem State.accept_result (c : SeqCmd) : (s.accept c).result = s.result := rfl
@[simp] theorem State.accept_stg (c : SeqCmd) : (s.accept c).stg = s.stg := rfl
@[simp] theorem State.accept_tc (c : SeqCmd) : (s.accept c).tc = s.tc := rfl
@[simp] theorem State.accept_pp (c : SeqCmd) : (s.accept c).pp = s.pp := rfl
@[simp] theorem State.accept_hh (c : SeqCmd) : (s.accept c).hh = s.hh := rfl
@[simp] theorem State.accept_port (c : SeqCmd) : (s.accept c).port = s.port := rfl
@[simp] theorem State.accept_responses (c : SeqCmd) : (s.accept c).responses = s.responses := rfl
@[simp] theorem State.accept_reads (c : SeqCmd) : (s.accept c).reads = s.reads := rfl
@[simp] theorem State.accept_bursts (c : SeqCmd) : (s.accept c).bursts = s.bursts := rfl
@[simp] theorem State.accept_draws (c : SeqCmd) : (s.accept c).draws = s.draws := rfl
@[simp] theorem State.accept_busLog (c : SeqCmd) : (s.accept c).busLog = s.busLog := rfl

@[simp] theorem State.advance_ss : (s.advance).ss = s.ss := rfl
@[simp] theorem State.advance_coeffs : (s.advance).coeffs = s.coeffs := rfl
@[simp] theorem State.advance_calbuf : (s.advance).calbuf = s.calbuf := rfl
@[simp] theorem State.advance_burst : (s.advance).burst = s.burst := rfl
@[simp] theorem State.advance_rawP : (s.advance).rawP = s.rawP := rfl
@[simp] theorem State.advance_rawT : (s.advance).rawT = s.rawT := rfl
@[simp] theorem State.advance_rawH : (s.advance).rawH = s.rawH := rfl
@[simp] theorem State.advance_tFine : (s.advance).tFine = s.tFine := rfl
@[simp] theorem State.advance_tempCenti : (s.advance).tempCenti = s.tempCenti := rfl
@[simp] theorem State.advance_pressPa : (s.advance).pressPa = s.pressPa := rfl
@[simp] theorem State.advance_humQ10 : (s.advance).humQ10 = s.humQ10 := rfl
@[simp] theorem State.advance_calValid : (s.advance).calValid = s.calValid := rfl
@[simp] theorem State.advance_rdValid : (s.advance).rdValid = s.rdValid := rfl
@[simp] theorem State.advance_pUnavail : (s.advance).pUnavail = s.pUnavail := rfl
@[simp] theorem State.advance_ioFail : (s.advance).ioFail = s.ioFail := rfl
@[simp] theorem State.advance_refused : (s.advance).refused = s.refused := rfl
@[simp] theorem State.advance_lastStatus : (s.advance).lastStatus = s.lastStatus := rfl
@[simp] theorem State.advance_active : (s.advance).active = s.active.map (fun a => { a with upc := a.upc + 1 }) := rfl
@[simp] theorem State.advance_result : (s.advance).result = s.result := rfl
@[simp] theorem State.advance_stg : (s.advance).stg = s.stg := rfl
@[simp] theorem State.advance_tc : (s.advance).tc = s.tc := rfl
@[simp] theorem State.advance_pp : (s.advance).pp = s.pp := rfl
@[simp] theorem State.advance_hh : (s.advance).hh = s.hh := rfl
@[simp] theorem State.advance_port : (s.advance).port = s.port := rfl
@[simp] theorem State.advance_responses : (s.advance).responses = s.responses := rfl
@[simp] theorem State.advance_reads : (s.advance).reads = s.reads := rfl
@[simp] theorem State.advance_bursts : (s.advance).bursts = s.bursts := rfl
@[simp] theorem State.advance_draws : (s.advance).draws = s.draws := rfl
@[simp] theorem State.advance_busLog : (s.advance).busLog = s.busLog := rfl

@[simp] theorem State.quit_ss : (s.quit).ss = s.ss := rfl
@[simp] theorem State.quit_coeffs : (s.quit).coeffs = s.coeffs := rfl
@[simp] theorem State.quit_calbuf : (s.quit).calbuf = s.calbuf := rfl
@[simp] theorem State.quit_burst : (s.quit).burst = s.burst := rfl
@[simp] theorem State.quit_rawP : (s.quit).rawP = s.rawP := rfl
@[simp] theorem State.quit_rawT : (s.quit).rawT = s.rawT := rfl
@[simp] theorem State.quit_rawH : (s.quit).rawH = s.rawH := rfl
@[simp] theorem State.quit_tFine : (s.quit).tFine = s.tFine := rfl
@[simp] theorem State.quit_tempCenti : (s.quit).tempCenti = s.tempCenti := rfl
@[simp] theorem State.quit_pressPa : (s.quit).pressPa = s.pressPa := rfl
@[simp] theorem State.quit_humQ10 : (s.quit).humQ10 = s.humQ10 := rfl
@[simp] theorem State.quit_calValid : (s.quit).calValid = s.calValid := rfl
@[simp] theorem State.quit_rdValid : (s.quit).rdValid = s.rdValid := rfl
@[simp] theorem State.quit_pUnavail : (s.quit).pUnavail = s.pUnavail := rfl
@[simp] theorem State.quit_ioFail : (s.quit).ioFail = s.ioFail := rfl
@[simp] theorem State.quit_refused : (s.quit).refused = s.refused := rfl
@[simp] theorem State.quit_lastStatus : (s.quit).lastStatus = s.lastStatus := rfl
@[simp] theorem State.quit_active : (s.quit).active = none := rfl
@[simp] theorem State.quit_result : (s.quit).result = none := rfl
@[simp] theorem State.quit_stg : (s.quit).stg = none := rfl
@[simp] theorem State.quit_tc : (s.quit).tc = none := rfl
@[simp] theorem State.quit_pp : (s.quit).pp = none := rfl
@[simp] theorem State.quit_hh : (s.quit).hh = none := rfl
@[simp] theorem State.quit_port : (s.quit).port = s.port := rfl
@[simp] theorem State.quit_responses : (s.quit).responses = s.responses := rfl
@[simp] theorem State.quit_reads : (s.quit).reads = s.reads := rfl
@[simp] theorem State.quit_bursts : (s.quit).bursts = s.bursts := rfl
@[simp] theorem State.quit_draws : (s.quit).draws = s.draws := rfl
@[simp] theorem State.quit_busLog : (s.quit).busLog = s.busLog := rfl

@[simp] theorem State.takeRead_ss (a : Addr) (ok : Bool) : (s.takeRead a ok).ss = s.ss := rfl
@[simp] theorem State.takeRead_coeffs (a : Addr) (ok : Bool) : (s.takeRead a ok).coeffs = s.coeffs := rfl
@[simp] theorem State.takeRead_calbuf (a : Addr) (ok : Bool) : (s.takeRead a ok).calbuf = s.calbuf := rfl
@[simp] theorem State.takeRead_burst (a : Addr) (ok : Bool) : (s.takeRead a ok).burst = s.burst := rfl
@[simp] theorem State.takeRead_rawP (a : Addr) (ok : Bool) : (s.takeRead a ok).rawP = s.rawP := rfl
@[simp] theorem State.takeRead_rawT (a : Addr) (ok : Bool) : (s.takeRead a ok).rawT = s.rawT := rfl
@[simp] theorem State.takeRead_rawH (a : Addr) (ok : Bool) : (s.takeRead a ok).rawH = s.rawH := rfl
@[simp] theorem State.takeRead_tFine (a : Addr) (ok : Bool) : (s.takeRead a ok).tFine = s.tFine := rfl
@[simp] theorem State.takeRead_tempCenti (a : Addr) (ok : Bool) : (s.takeRead a ok).tempCenti = s.tempCenti := rfl
@[simp] theorem State.takeRead_pressPa (a : Addr) (ok : Bool) : (s.takeRead a ok).pressPa = s.pressPa := rfl
@[simp] theorem State.takeRead_humQ10 (a : Addr) (ok : Bool) : (s.takeRead a ok).humQ10 = s.humQ10 := rfl
@[simp] theorem State.takeRead_calValid (a : Addr) (ok : Bool) : (s.takeRead a ok).calValid = s.calValid := rfl
@[simp] theorem State.takeRead_rdValid (a : Addr) (ok : Bool) : (s.takeRead a ok).rdValid = s.rdValid := rfl
@[simp] theorem State.takeRead_pUnavail (a : Addr) (ok : Bool) : (s.takeRead a ok).pUnavail = s.pUnavail := rfl
@[simp] theorem State.takeRead_ioFail (a : Addr) (ok : Bool) : (s.takeRead a ok).ioFail = s.ioFail := rfl
@[simp] theorem State.takeRead_refused (a : Addr) (ok : Bool) : (s.takeRead a ok).refused = s.refused := rfl
@[simp] theorem State.takeRead_lastStatus (a : Addr) (ok : Bool) : (s.takeRead a ok).lastStatus = s.lastStatus := rfl
@[simp] theorem State.takeRead_active (a : Addr) (ok : Bool) : (s.takeRead a ok).active = s.active := rfl
@[simp] theorem State.takeRead_result (a : Addr) (ok : Bool) : (s.takeRead a ok).result = s.result := rfl
@[simp] theorem State.takeRead_stg (a : Addr) (ok : Bool) : (s.takeRead a ok).stg = s.stg := rfl
@[simp] theorem State.takeRead_tc (a : Addr) (ok : Bool) : (s.takeRead a ok).tc = s.tc := rfl
@[simp] theorem State.takeRead_pp (a : Addr) (ok : Bool) : (s.takeRead a ok).pp = s.pp := rfl
@[simp] theorem State.takeRead_hh (a : Addr) (ok : Bool) : (s.takeRead a ok).hh = s.hh := rfl
@[simp] theorem State.takeRead_port (a : Addr) (ok : Bool) : (s.takeRead a ok).port = s.port := rfl
@[simp] theorem State.takeRead_responses (a : Addr) (ok : Bool) : (s.takeRead a ok).responses = s.responses := rfl
@[simp] theorem State.takeRead_reads (a : Addr) (ok : Bool) : (s.takeRead a ok).reads = s.reads.tail := rfl
@[simp] theorem State.takeRead_bursts (a : Addr) (ok : Bool) : (s.takeRead a ok).bursts = s.bursts := rfl
@[simp] theorem State.takeRead_draws (a : Addr) (ok : Bool) : (s.takeRead a ok).draws = if s.reads.isEmpty then s.draws + 1 else s.draws := rfl
@[simp] theorem State.takeRead_busLog (a : Addr) (ok : Bool) : (s.takeRead a ok).busLog = ⟨Config.devAddr, a, 1, ok⟩ :: s.busLog := rfl

@[simp] theorem State.takeBurst_ss (ok : Bool) : (s.takeBurst ok).ss = s.ss := rfl
@[simp] theorem State.takeBurst_coeffs (ok : Bool) : (s.takeBurst ok).coeffs = s.coeffs := rfl
@[simp] theorem State.takeBurst_calbuf (ok : Bool) : (s.takeBurst ok).calbuf = s.calbuf := rfl
@[simp] theorem State.takeBurst_burst (ok : Bool) : (s.takeBurst ok).burst = s.burst := rfl
@[simp] theorem State.takeBurst_rawP (ok : Bool) : (s.takeBurst ok).rawP = s.rawP := rfl
@[simp] theorem State.takeBurst_rawT (ok : Bool) : (s.takeBurst ok).rawT = s.rawT := rfl
@[simp] theorem State.takeBurst_rawH (ok : Bool) : (s.takeBurst ok).rawH = s.rawH := rfl
@[simp] theorem State.takeBurst_tFine (ok : Bool) : (s.takeBurst ok).tFine = s.tFine := rfl
@[simp] theorem State.takeBurst_tempCenti (ok : Bool) : (s.takeBurst ok).tempCenti = s.tempCenti := rfl
@[simp] theorem State.takeBurst_pressPa (ok : Bool) : (s.takeBurst ok).pressPa = s.pressPa := rfl
@[simp] theorem State.takeBurst_humQ10 (ok : Bool) : (s.takeBurst ok).humQ10 = s.humQ10 := rfl
@[simp] theorem State.takeBurst_calValid (ok : Bool) : (s.takeBurst ok).calValid = s.calValid := rfl
@[simp] theorem State.takeBurst_rdValid (ok : Bool) : (s.takeBurst ok).rdValid = s.rdValid := rfl
@[simp] theorem State.takeBurst_pUnavail (ok : Bool) : (s.takeBurst ok).pUnavail = s.pUnavail := rfl
@[simp] theorem State.takeBurst_ioFail (ok : Bool) : (s.takeBurst ok).ioFail = s.ioFail := rfl
@[simp] theorem State.takeBurst_refused (ok : Bool) : (s.takeBurst ok).refused = s.refused := rfl
@[simp] theorem State.takeBurst_lastStatus (ok : Bool) : (s.takeBurst ok).lastStatus = s.lastStatus := rfl
@[simp] theorem State.takeBurst_active (ok : Bool) : (s.takeBurst ok).active = s.active := rfl
@[simp] theorem State.takeBurst_result (ok : Bool) : (s.takeBurst ok).result = s.result := rfl
@[simp] theorem State.takeBurst_stg (ok : Bool) : (s.takeBurst ok).stg = s.stg := rfl
@[simp] theorem State.takeBurst_tc (ok : Bool) : (s.takeBurst ok).tc = s.tc := rfl
@[simp] theorem State.takeBurst_pp (ok : Bool) : (s.takeBurst ok).pp = s.pp := rfl
@[simp] theorem State.takeBurst_hh (ok : Bool) : (s.takeBurst ok).hh = s.hh := rfl
@[simp] theorem State.takeBurst_port (ok : Bool) : (s.takeBurst ok).port = s.port := rfl
@[simp] theorem State.takeBurst_responses (ok : Bool) : (s.takeBurst ok).responses = s.responses := rfl
@[simp] theorem State.takeBurst_reads (ok : Bool) : (s.takeBurst ok).reads = s.reads := rfl
@[simp] theorem State.takeBurst_bursts (ok : Bool) : (s.takeBurst ok).bursts = s.bursts.tail := rfl
@[simp] theorem State.takeBurst_draws (ok : Bool) : (s.takeBurst ok).draws = if s.bursts.isEmpty then s.draws + 1 else s.draws := rfl
@[simp] theorem State.takeBurst_busLog (ok : Bool) : (s.takeBurst ok).busLog = ⟨Config.devAddr, Config.measAddr, Config.burstLen, ok⟩ :: s.busLog := rfl

@[simp] theorem State.accept_loadcal_ss : (s.accept .loadcal).ss = s.ss := rfl
@[simp] theorem State.accept_readcomp_ss : (s.accept .readcomp).ss = .readRaw := rfl

@[simp] theorem State.record_ss (c : Cause) : (s.record c).ss = s.ss := by cases c <;> rfl
@[simp] theorem State.record_coeffs (c : Cause) : (s.record c).coeffs = s.coeffs := by cases c <;> rfl
@[simp] theorem State.record_calbuf (c : Cause) : (s.record c).calbuf = s.calbuf := by cases c <;> rfl
@[simp] theorem State.record_burst (c : Cause) : (s.record c).burst = s.burst := by cases c <;> rfl
@[simp] theorem State.record_rawP (c : Cause) : (s.record c).rawP = s.rawP := by cases c <;> rfl
@[simp] theorem State.record_rawT (c : Cause) : (s.record c).rawT = s.rawT := by cases c <;> rfl
@[simp] theorem State.record_rawH (c : Cause) : (s.record c).rawH = s.rawH := by cases c <;> rfl
@[simp] theorem State.record_tFine (c : Cause) : (s.record c).tFine = s.tFine := by cases c <;> rfl
@[simp] theorem State.record_tempCenti (c : Cause) : (s.record c).tempCenti = s.tempCenti := by cases c <;> rfl
@[simp] theorem State.record_pressPa (c : Cause) : (s.record c).pressPa = s.pressPa := by cases c <;> rfl
@[simp] theorem State.record_humQ10 (c : Cause) : (s.record c).humQ10 = s.humQ10 := by cases c <;> rfl
@[simp] theorem State.record_calValid (c : Cause) : (s.record c).calValid = s.calValid := by cases c <;> rfl
@[simp] theorem State.record_rdValid (c : Cause) : (s.record c).rdValid = s.rdValid := by cases c <;> rfl
@[simp] theorem State.record_lastStatus (c : Cause) : (s.record c).lastStatus = s.lastStatus := by cases c <;> rfl
@[simp] theorem State.record_active (c : Cause) : (s.record c).active = s.active := by cases c <;> rfl
@[simp] theorem State.record_result (c : Cause) : (s.record c).result = s.result := by cases c <;> rfl
@[simp] theorem State.record_stg (c : Cause) : (s.record c).stg = s.stg := by cases c <;> rfl
@[simp] theorem State.record_tc (c : Cause) : (s.record c).tc = s.tc := by cases c <;> rfl
@[simp] theorem State.record_pp (c : Cause) : (s.record c).pp = s.pp := by cases c <;> rfl
@[simp] theorem State.record_hh (c : Cause) : (s.record c).hh = s.hh := by cases c <;> rfl
@[simp] theorem State.record_port (c : Cause) : (s.record c).port = s.port := by cases c <;> rfl
@[simp] theorem State.record_responses (c : Cause) : (s.record c).responses = s.responses := by cases c <;> rfl
@[simp] theorem State.record_reads (c : Cause) : (s.record c).reads = s.reads := by cases c <;> rfl
@[simp] theorem State.record_bursts (c : Cause) : (s.record c).bursts = s.bursts := by cases c <;> rfl
@[simp] theorem State.record_draws (c : Cause) : (s.record c).draws = s.draws := by cases c <;> rfl
@[simp] theorem State.record_busLog (c : Cause) : (s.record c).busLog = s.busLog := by cases c <;> rfl

@[simp] theorem State.raise_ss (c : Cause) : (s.raise c).ss = s.ss := by cases c <;> rfl
@[simp] theorem State.raise_coeffs (c : Cause) : (s.raise c).coeffs = s.coeffs := by cases c <;> rfl
@[simp] theorem State.raise_calbuf (c : Cause) : (s.raise c).calbuf = s.calbuf := by cases c <;> rfl
@[simp] theorem State.raise_burst (c : Cause) : (s.raise c).burst = s.burst := by cases c <;> rfl
@[simp] theorem State.raise_rawP (c : Cause) : (s.raise c).rawP = s.rawP := by cases c <;> rfl
@[simp] theorem State.raise_rawT (c : Cause) : (s.raise c).rawT = s.rawT := by cases c <;> rfl
@[simp] theorem State.raise_rawH (c : Cause) : (s.raise c).rawH = s.rawH := by cases c <;> rfl
@[simp] theorem State.raise_tFine (c : Cause) : (s.raise c).tFine = s.tFine := by cases c <;> rfl
@[simp] theorem State.raise_tempCenti (c : Cause) : (s.raise c).tempCenti = s.tempCenti := by cases c <;> rfl
@[simp] theorem State.raise_pressPa (c : Cause) : (s.raise c).pressPa = s.pressPa := by cases c <;> rfl
@[simp] theorem State.raise_humQ10 (c : Cause) : (s.raise c).humQ10 = s.humQ10 := by cases c <;> rfl
@[simp] theorem State.raise_calValid (c : Cause) : (s.raise c).calValid = s.calValid := by cases c <;> rfl
@[simp] theorem State.raise_rdValid (c : Cause) : (s.raise c).rdValid = s.rdValid := by cases c <;> rfl
@[simp] theorem State.raise_lastStatus (c : Cause) : (s.raise c).lastStatus = .ended c := by cases c <;> rfl
@[simp] theorem State.raise_active (c : Cause) : (s.raise c).active = s.active := by cases c <;> rfl
@[simp] theorem State.raise_result (c : Cause) : (s.raise c).result = s.result := by cases c <;> rfl
@[simp] theorem State.raise_stg (c : Cause) : (s.raise c).stg = s.stg := by cases c <;> rfl
@[simp] theorem State.raise_tc (c : Cause) : (s.raise c).tc = s.tc := by cases c <;> rfl
@[simp] theorem State.raise_pp (c : Cause) : (s.raise c).pp = s.pp := by cases c <;> rfl
@[simp] theorem State.raise_hh (c : Cause) : (s.raise c).hh = s.hh := by cases c <;> rfl
@[simp] theorem State.raise_port (c : Cause) : (s.raise c).port = s.port := by cases c <;> rfl
@[simp] theorem State.raise_responses (c : Cause) : (s.raise c).responses = .ended c :: s.responses := by cases c <;> rfl
@[simp] theorem State.raise_reads (c : Cause) : (s.raise c).reads = s.reads := by cases c <;> rfl
@[simp] theorem State.raise_bursts (c : Cause) : (s.raise c).bursts = s.bursts := by cases c <;> rfl
@[simp] theorem State.raise_draws (c : Cause) : (s.raise c).draws = s.draws := by cases c <;> rfl
@[simp] theorem State.raise_busLog (c : Cause) : (s.raise c).busLog = s.busLog := by cases c <;> rfl

/-- R180: `P_UNAVAIL` is set by `UNAVAILABLE` and by no other ending. -/
@[simp] theorem State.raise_pUnavail (c : Cause) : (s.raise c).pUnavail = (c == .unavailable || s.pUnavail) := by
  cases c <;> rfl

/-- R180: `IOFAIL` is set by `IO_FAILURE` and by no other ending. -/
@[simp] theorem State.raise_ioFail (c : Cause) : (s.raise c).ioFail = (c == .ioFailure || s.ioFail) := by
  cases c <;> rfl

/-- R180: `REFUSED` is set by the four refusals and by no other ending. -/
@[simp] theorem State.raise_refused (c : Cause) :
    (s.raise c).refused = (!(c == .unavailable || c == .ioFailure) || s.refused) := by
  cases c <;> rfl

@[simp] theorem State.applyReset_ss : s.applyReset.ss = State.reset.ss := rfl
@[simp] theorem State.applyReset_coeffs : s.applyReset.coeffs = State.reset.coeffs := rfl
@[simp] theorem State.applyReset_calbuf : s.applyReset.calbuf = State.reset.calbuf := rfl
@[simp] theorem State.applyReset_burst : s.applyReset.burst = State.reset.burst := rfl
@[simp] theorem State.applyReset_rawP : s.applyReset.rawP = State.reset.rawP := rfl
@[simp] theorem State.applyReset_rawT : s.applyReset.rawT = State.reset.rawT := rfl
@[simp] theorem State.applyReset_rawH : s.applyReset.rawH = State.reset.rawH := rfl
@[simp] theorem State.applyReset_tFine : s.applyReset.tFine = State.reset.tFine := rfl
@[simp] theorem State.applyReset_tempCenti : s.applyReset.tempCenti = State.reset.tempCenti := rfl
@[simp] theorem State.applyReset_pressPa : s.applyReset.pressPa = State.reset.pressPa := rfl
@[simp] theorem State.applyReset_humQ10 : s.applyReset.humQ10 = State.reset.humQ10 := rfl
@[simp] theorem State.applyReset_calValid : s.applyReset.calValid = State.reset.calValid := rfl
@[simp] theorem State.applyReset_rdValid : s.applyReset.rdValid = State.reset.rdValid := rfl
@[simp] theorem State.applyReset_pUnavail : s.applyReset.pUnavail = State.reset.pUnavail := rfl
@[simp] theorem State.applyReset_ioFail : s.applyReset.ioFail = State.reset.ioFail := rfl
@[simp] theorem State.applyReset_refused : s.applyReset.refused = State.reset.refused := rfl
@[simp] theorem State.applyReset_lastStatus : s.applyReset.lastStatus = State.reset.lastStatus := rfl
@[simp] theorem State.applyReset_active : s.applyReset.active = State.reset.active := rfl
@[simp] theorem State.applyReset_result : s.applyReset.result = State.reset.result := rfl
@[simp] theorem State.applyReset_stg : s.applyReset.stg = State.reset.stg := rfl
@[simp] theorem State.applyReset_tc : s.applyReset.tc = State.reset.tc := rfl
@[simp] theorem State.applyReset_pp : s.applyReset.pp = State.reset.pp := rfl
@[simp] theorem State.applyReset_hh : s.applyReset.hh = State.reset.hh := rfl
@[simp] theorem State.applyReset_port : s.applyReset.port = s.port := rfl
@[simp] theorem State.applyReset_responses : s.applyReset.responses = s.responses := rfl
@[simp] theorem State.applyReset_reads : s.applyReset.reads = s.reads := rfl
@[simp] theorem State.applyReset_bursts : s.applyReset.bursts = s.bursts := rfl
@[simp] theorem State.applyReset_draws : s.applyReset.draws = s.draws := rfl
@[simp] theorem State.applyReset_busLog : s.applyReset.busLog = s.busLog := rfl

end Sys2Proof.Machine
end

