-- ==== Sys2Proof/Laws/Ops.lean ====
section
/-! SUPPORT. What the shared operations can do, said once: `CALBUF`, sequencing of outcomes, register
reads, the calibration reads and the bus, and the fetch. -/

namespace Sys2Proof.Machine

/-! ### CALBUF -/

@[simp] theorem Memory.read_nil (a : Nat) : Memory.read [] a = none := rfl

theorem Memory.read_write_same (m : Memory) (a : Nat) (b : Byte) : Memory.read (Memory.write m a b) a = some b := by
  induction m with
  | nil => simp [Memory.write, Memory.read]
  | cons x rest ih =>
    obtain ⟨k, v⟩ := x
    unfold Memory.write
    split
    · simp [Memory.read]
    · split
      · simp [Memory.read]
      · have hk : k ≠ a := fun h => by simp_all
        simp [Memory.read, hk, ih]

theorem Memory.read_write_other (m : Memory) {a c : Nat} (b : Byte) (h : c ≠ a) :
    Memory.read (Memory.write m a b) c = Memory.read m c := by
  induction m with
  | nil => simp [Memory.write, Memory.read, Ne.symm h]
  | cons x rest ih =>
    obtain ⟨k, v⟩ := x
    unfold Memory.write
    split
    · simp [Memory.read, Ne.symm h]
    · split
      · rename_i h1 h2
        subst h2
        simp [Memory.read, Ne.symm h]
      · simp [Memory.read, ih]

theorem Memory.mem_write {m : Memory} {a : Nat} {b : Byte} {x : Host.Cell} (h : x ∈ Memory.write m a b) :
    x = (a, b) ∨ x ∈ m := by
  induction m with
  | nil => simpa [Memory.write] using h
  | cons y rest ih =>
    obtain ⟨k, v⟩ := y
    unfold Memory.write at h
    split at h
    · simpa using h
    · split at h
      · rcases List.mem_cons.mp h with h | h <;> simp [h]
      · rcases List.mem_cons.mp h with h | h
        · simp [h]
        · rcases ih h with h | h <;> simp [h]

/-- A write keeps the canonical form. -/
theorem Memory.write_wf {m : Memory} (hm : Memory.wf m) (a : Nat) (b : Byte) : Memory.wf (Memory.write m a b) := by
  induction m with
  | nil => simp [Memory.wf, Memory.write]
  | cons x rest ih =>
    obtain ⟨k, v⟩ := x
    have hr := List.pairwise_cons.mp hm
    unfold Memory.write
    split
    · rename_i hlt
      refine List.pairwise_cons.mpr ⟨fun y hy => ?_, hm⟩
      rcases List.mem_cons.mp hy with rfl | hy
      · exact hlt
      · exact Nat.lt_trans hlt (hr.1 y hy)
    · split
      · rename_i h
        subst h
        exact List.pairwise_cons.mpr ⟨hr.1, hr.2⟩
      · rename_i h1 h2
        refine List.pairwise_cons.mpr ⟨fun y hy => ?_, ih hr.2⟩
        rcases Memory.mem_write hy with rfl | hy
        · show k < a
          omega
        · exact hr.1 y hy

/-- Reset lists nothing, so its buffer has the canonical form. -/
theorem reset_buffer_wf : Memory.wf State.reset.calbuf := List.Pairwise.nil

/-! ### Outcomes -/

@[simp] theorem andThen_next (s : State) (f : State → Out) : andThen (.next s) f = f s := rfl
@[simp] theorem andThen_fault (r : Fault) (f : State → Out) : andThen (.fault r) f = .fault r := rfl
@[simp] theorem andThen_refused (r : Refusal) (f : State → Out) : andThen (.refused r) f = .refused r := rfl

/-- A sequence of two parts reaches a next state only through a next state of the first part. -/
theorem andThen_eq_next {o : Out} {f : State → Out} {t : State} (h : andThen o f = .next t) :
    ∃ u, o = .next u ∧ f u = .next t := by
  cases o with
  | next u => exact ⟨u, rfl, h⟩
  | fault r => simp [andThen] at h
  | refused r => simp [andThen] at h

@[simp] theorem readReg_some {α : Type} (r : DataReg) (a : α) (f : α → Out) : readReg r (some a) f = f a := rfl
@[simp] theorem readReg_none {α : Type} (r : DataReg) (f : α → Out) :
    readReg r none f = .fault (.readOfNoValue r) := rfl

/-- A register read goes on only if the register holds a value. -/
theorem readReg_eq_next {α : Type} {r : DataReg} {v : Option α} {f : α → Out} {t : State}
    (h : readReg r v f = .next t) : ∃ a, v = some a ∧ f a = .next t := by
  cases v with
  | none => simp at h
  | some a => exact ⟨a, rfl, h⟩

/-- A pressure is held exactly where `COMPP` handed on a number. -/
theorem State.heldPressure_eq_some {s : State} {p : Word} : s.heldPressure = some p ↔ s.pp = some (.pascals p) := by
  unfold State.heldPressure
  split <;> simp_all

theorem State.heldPressure_eq_none {s : State} :
    s.heldPressure = none ↔ s.pp = none ∨ s.pp = some .unavailable := by
  unfold State.heldPressure
  split <;> simp_all

/-! ### The calibration reads -/

theorem storeAll_wf {img : Addr → Byte} {as : List Addr} {m : Memory} (h : Memory.wf m) :
    Memory.wf (storeAll img as m) := by
  induction as generalizing m with
  | nil => exact h
  | cons a rest ih => exact ih (Memory.write_wf h _ _)

theorem storeAll_read_other {img : Addr → Byte} {as : List Addr} {m : Memory} {c : Nat}
    (h : ∀ a ∈ as, c ≠ a.toNat) : Memory.read (storeAll img as m) c = Memory.read m c := by
  induction as generalizing m with
  | nil => rfl
  | cons a rest ih =>
    rw [storeAll, ih (fun x hx => h x (by simp [hx])), Memory.read_write_other _ _ (h a (by simp))]

theorem storeAll_read {img : Addr → Byte} {as : List Addr} {m : Memory} {a : Addr} (h : a ∈ as) :
    Memory.read (storeAll img as m) a.toNat = some (img a) := by
  induction as generalizing m with
  | nil => simp at h
  | cons x rest ih =>
    by_cases hr : a ∈ rest
    · exact ih hr
    · rcases List.mem_cons.mp h with rfl | hx
      · rw [storeAll, storeAll_read_other, Memory.read_write_same]
        intro y hy he
        exact hr (BitVec.eq_of_toNat_eq he ▸ hy)
      · exact absurd hx hr

/-- The first answer to come is the one the next read takes. -/
theorem State.answerAt_zero (s : State) : s.answerAt 0 = s.nextRead := by
  unfold State.answerAt State.nextRead
  cases s.reads <;> simp

/-- After one read, the answers to come are the same, counted from one later. -/
theorem State.answerAt_takeRead (s : State) (a : Addr) (ok : Bool) (m : Memory) (k : Nat) :
    ({ s.takeRead a ok with calbuf := m } : State).answerAt k = s.answerAt (k + 1) := by
  unfold State.answerAt
  cases h : s.reads with
  | nil =>
    simp only [State.takeRead, h]
    simp [Nat.add_comm, Nat.add_left_comm]
  | cons x rest => simp [h]

/-- The answers to come do not depend on anything but the script and the count of draws. -/
theorem State.nextRead_eq_of_answer {s : State} {a : Answer Byte} (h : s.answerAt 0 = a) : s.nextRead = a := by
  rw [← State.answerAt_zero, h]

/-- R101: every read succeeds. -/
theorem calFetch_ok {img : Addr → Byte} {as : List Addr} {s : State}
    (h : ∀ k (hk : k < as.length), s.answerAt k = .ok (img as[k])) :
    calFetch as s = .next { s with
      calbuf := storeAll img as s.calbuf
      result := some .ok
      reads := s.reads.drop as.length
      draws := s.draws + (as.length - s.reads.length)
      busLog := (as.map fun a => (⟨Config.devAddr, a, 1, true⟩ : Transaction)).reverse ++ s.busLog } := by
  induction as generalizing s with
  | nil => simp [calFetch, storeAll]
  | cons a rest ih =>
    have h0 : s.nextRead = .ok (img a) := State.nextRead_eq_of_answer (h 0 (by simp))
    rw [calFetch, h0]
    simp only
    rw [ih (s := { s.takeRead a true with calbuf := Memory.write (s.takeRead a true).calbuf a.toNat (img a) })
      (fun k hk => by
        rw [State.answerAt_takeRead]
        exact h (k + 1) (by simpa using hk))]
    cases hr : s.reads with
    | nil =>
      simp [storeAll, State.takeRead, hr]
      omega
    | cons x xs => simp [storeAll, State.takeRead, hr]

/-- R101: the reads of `pre` succeed and the read of `a` fails; the addresses after it are not read. -/
theorem calFetch_fail {img : Addr → Byte} {pre post : List Addr} {a : Addr} {s : State}
    (h : ∀ k (hk : k < pre.length), s.answerAt k = .ok (img pre[k])) (hf : s.answerAt pre.length = .fail) :
    calFetch (pre ++ a :: post) s = .next { s with
      calbuf := storeAll img pre s.calbuf
      result := some .fail
      reads := s.reads.drop (pre.length + 1)
      draws := s.draws + (pre.length + 1 - s.reads.length)
      busLog := ⟨Config.devAddr, a, 1, false⟩ ::
        (pre.map fun x => (⟨Config.devAddr, x, 1, true⟩ : Transaction)).reverse ++ s.busLog } := by
  induction pre generalizing s with
  | nil =>
    have h0 : s.nextRead = .fail := State.nextRead_eq_of_answer hf
    cases hr : s.reads with
    | nil => simp [calFetch, h0, storeAll, State.takeRead, hr]
    | cons x xs => simp [calFetch, h0, storeAll, State.takeRead, hr]
  | cons b pre ih =>
    have h0 : s.nextRead = .ok (img b) := State.nextRead_eq_of_answer (h 0 (by simp))
    rw [List.cons_append, calFetch, h0]
    simp only
    rw [ih (s := { s.takeRead b true with calbuf := Memory.write (s.takeRead b true).calbuf b.toNat (img b) })
      (fun k hk => by
        rw [State.answerAt_takeRead]
        exact h (k + 1) (by simpa using hk))
      (by rw [State.answerAt_takeRead]; exact hf)]
    cases hr : s.reads with
    | nil =>
      simp [storeAll, State.takeRead, hr]
      omega
    | cons x xs => simp [storeAll, State.takeRead, hr]

/-- R209: the reads of `pre` succeed and the read of `a` is never answered. -/
theorem calFetch_silent {img : Addr → Byte} {pre post : List Addr} {a : Addr} {s : State}
    (h : ∀ k (hk : k < pre.length), s.answerAt k = .ok (img pre[k])) (hf : s.answerAt pre.length = .silent) :
    calFetch (pre ++ a :: post) s = .fault .unansweredRead := by
  induction pre generalizing s with
  | nil =>
    have h0 : s.nextRead = .silent := State.nextRead_eq_of_answer hf
    simp [calFetch, h0]
  | cons b pre ih =>
    have h0 : s.nextRead = .ok (img b) := State.nextRead_eq_of_answer (h 0 (by simp))
    rw [List.cons_append, calFetch, h0]
    simp only
    exact ih (fun k hk => by
        rw [State.answerAt_takeRead]
        exact h (k + 1) (by simpa using hk))
      (by rw [State.answerAt_takeRead]; exact hf)

/-- A buffer in which every calibration address holds a byte decodes to its image (R102). -/
theorem calDec_eq_some {m : Memory} {c : Coeffs} : calDec m = some c ↔
    Memory.complete m = true ∧ c = decodeImage (Memory.image m) := by
  unfold calDec
  split
  · rename_i h
    simp only [h, true_and, Option.some.injEq]
    exact eq_comm
  · rename_i h
    simp [h]

/-- After all the calibration bytes have been stored, the buffer is complete and its image is the bytes. -/
theorem storeAll_complete (img : Addr → Byte) (m : Memory) :
    Memory.complete (storeAll img Config.calAddrs m) = true := by
  rw [Memory.complete, List.all_eq_true]
  intro a ha
  rw [storeAll_read ha]
  rfl

theorem storeAll_image {img : Addr → Byte} {m : Memory} {a : Addr} (h : a ∈ Config.calAddrs) :
    Memory.image (storeAll img Config.calAddrs m) a = img a := by
  rw [Memory.image, storeAll_read h]
  rfl

/-- The decode reads calibration addresses only. -/
theorem decodeImage_congr {f g : Addr → Byte} (h : ∀ a ∈ Config.calAddrs, f a = g a) :
    decodeImage f = decodeImage g := by
  rw [decodeImage, decodeImage,
    h 0x88#8 (by decide), h 0x89#8 (by decide), h 0x8A#8 (by decide), h 0x8B#8 (by decide),
    h 0x8C#8 (by decide), h 0x8D#8 (by decide), h 0x8E#8 (by decide), h 0x8F#8 (by decide),
    h 0x90#8 (by decide), h 0x91#8 (by decide), h 0x92#8 (by decide), h 0x93#8 (by decide),
    h 0x94#8 (by decide), h 0x95#8 (by decide), h 0x96#8 (by decide), h 0x97#8 (by decide),
    h 0x98#8 (by decide), h 0x99#8 (by decide), h 0x9A#8 (by decide), h 0x9B#8 (by decide),
    h 0x9C#8 (by decide), h 0x9D#8 (by decide), h 0x9E#8 (by decide), h 0x9F#8 (by decide),
    h 0xA1#8 (by decide), h 0xE1#8 (by decide), h 0xE2#8 (by decide), h 0xE3#8 (by decide),
    h 0xE4#8 (by decide), h 0xE5#8 (by decide), h 0xE6#8 (by decide), h 0xE7#8 (by decide)]

end Sys2Proof.Machine
end

