-- ==== Sys2Proof/Laws/Sequencer.lean ====
section
/-! SUPPORT. The sequencer, the calibration reads and the accessors, each inverted once: if it answers
a next state, one of these cases holds. -/

namespace Sys2Proof.Machine

/-- A micro-operation has one meaning, in the dispatch and in the sequencer. -/
theorem exec_eq_uopMeaning {i : Instr} (h : i.isUop = true) (s : State) : exec i s = uopMeaning i s := by
  cases i <;> first | rfl | (simp [Instr.isUop] at h)

/-- Every entry of a microprogram is a micro-operation. -/
theorem uopAt_isUop {a : Active} {i : Instr} (h : uopAt a = some i) : i.isUop = true := by
  obtain ⟨cmd, upc⟩ := a
  cases cmd <;> rcases upc with _ | _ | _ | _ | _ | _ | n <;> simp [uopAt, microprogram] at h <;> subst h <;> rfl

/-- A command that has ended does nothing more. -/
theorem runMicro_idle {n : Nat} {s : State} (h : s.active = none) : runMicro n s = .next s := by
  cases n <;> simp [runMicro, h]

/-- A command in progress runs the micro-operation at `UPC`, then the sequencer, then the rest. -/
theorem runMicro_step {n : Nat} {s : State} {a : Active} {i : Instr} (ha : s.active = some a) (hi : uopAt a = some i) :
    runMicro (n + 1) s = andThen (andThen (uopMeaning i s) (sequencer i)) (runMicro n) := by
  simp [runMicro, ha, hi, uopStep]

/-- What the sequencer can do after a micro-operation: go on to the next one (`RAWDEC` also enters
`Compensate`), or end the command. -/
theorem sequencer_cases {i : Instr} {s t : State} (h : sequencer i s = .next t) :
    (t = s.advance ∧
      (i = .calfetch ∧ s.result = some .ok ∨ i = .caldec ∨ i = .burstrd ∧ s.result = some .ok ∨ i = .compt ∨
        (i = .compp ∧ ∃ p, s.pp = some (.pascals p)) ∨ i = .comph)) ∨
    (t = ({ s with ss := .compensate } : State).advance ∧ i = .rawdec) ∨
    (t = completeLoad s ∧ i = .calcommit) ∨ (t = completeCycle s ∧ i = .publish) ∨
    (t = abortLoad s ∧ i = .calfetch ∧ s.result = some .fail) ∨
    (t = abortCycle .ioFailure s ∧ i = .burstrd ∧ s.result = some .fail) ∨
    (t = abortCycle .unavailable s ∧ i = .compp ∧ s.pp = some .unavailable) := by
  cases i <;> simp only [sequencer, Host.Outcome.next.injEq, reduceCtorEq] at h
  case calfetch =>
    obtain ⟨r, hr, h⟩ := readReg_eq_next h
    cases r <;> simp at h <;> simp [hr, h]
  case burstrd =>
    obtain ⟨r, hr, h⟩ := readReg_eq_next h
    cases r <;> simp at h <;> simp [hr, h]
  case compp =>
    obtain ⟨r, hr, h⟩ := readReg_eq_next h
    cases r <;> simp at h <;> simp [hr, h]
  all_goals simp [h]

/-- What the calibration reads can do: `CALBUF` keeps its form and every byte it held, and either every
address now holds a byte, or the reads stopped at a failing one. -/
theorem calFetch_cases {as : List Addr} {s u : State} (h : calFetch as s = .next u) :
    ∃ m rd dr r l, u = { s with calbuf := m, result := some r, reads := rd, draws := dr, busLog := l ++ s.busLog } ∧
      (Memory.wf s.calbuf → Memory.wf m) ∧
      (∀ x ∈ m, x ∈ s.calbuf ∨ ∃ a ∈ as, x.1 = a.toNat) ∧
      (∀ k, (Memory.read s.calbuf k).isSome = true → (Memory.read m k).isSome = true) ∧
      ((r = .ok ∧ (∀ a ∈ as, (Memory.read m a.toNat).isSome = true) ∧
          l = (as.map fun a => (⟨Config.devAddr, a, 1, true⟩ : Transaction)).reverse) ∨
        (r = .fail ∧ ∃ n, ∃ hn : n < as.length,
          l = ⟨Config.devAddr, as[n], 1, false⟩ ::
            ((as.take n).map fun a => (⟨Config.devAddr, a, 1, true⟩ : Transaction)).reverse)) := by
  induction as generalizing s with
  | nil =>
    simp only [calFetch, Host.Outcome.next.injEq] at h
    subst h
    exact ⟨s.calbuf, s.reads, s.draws, .ok, [], rfl, id, fun x hx => .inl hx, fun _ => id, .inl ⟨rfl, by simp, rfl⟩⟩
  | cons a rest ih =>
    rw [calFetch] at h
    cases hn : s.nextRead with
    | silent => simp [hn] at h
    | fail =>
      simp only [hn, Host.Outcome.next.injEq] at h
      subst h
      exact ⟨s.calbuf, s.reads.tail, _, .fail, [⟨Config.devAddr, a, 1, false⟩], rfl, id, fun x hx => .inl hx, fun _ => id,
        .inr ⟨rfl, 0, by simp, by simp⟩⟩
    | ok b =>
      simp only [hn] at h
      obtain ⟨m, rd, dr, r, l, hu, hwf, hmem, hkeep, hcase⟩ := ih h
      refine ⟨m, rd, dr, r, l ++ [⟨Config.devAddr, a, 1, true⟩], ?_, fun hm => hwf (Memory.write_wf hm _ _), ?_, ?_, ?_⟩
      · rw [hu]
        simp [State.takeRead]
      · intro x hx
        rcases hmem x hx with hx | ⟨c, hc, hx⟩
        · rcases Memory.mem_write hx with rfl | hx
          · exact .inr ⟨a, by simp, rfl⟩
          · exact .inl hx
        · exact .inr ⟨c, by simp [hc], hx⟩
      · intro k hk
        apply hkeep
        by_cases hka : k = a.toNat
        · subst hka
          simp [Memory.read_write_same]
        · simpa [Memory.read_write_other _ _ hka] using hk
      · rcases hcase with ⟨hr, hall, hl⟩ | ⟨hr, n, hlt, hl⟩
        · refine .inl ⟨hr, fun c hc => ?_, by simp [hl]⟩
          rcases List.mem_cons.mp hc with rfl | hc
          · exact hkeep _ (by simp [Memory.read_write_same])
          · exact hall c hc
        · exact .inr ⟨hr, n + 1, by simpa using hlt, by simp [hl]⟩

/-- The only stop of the calibration reads is an unanswered one. -/
theorem calFetch_stop {as : List Addr} {s : State} :
    (∃ u, calFetch as s = .next u) ∨ calFetch as s = .fault .unansweredRead := by
  induction as generalizing s with
  | nil => exact .inl ⟨_, rfl⟩
  | cons a rest ih =>
    rw [calFetch]
    cases s.nextRead with
    | silent => exact .inr rfl
    | fail => exact .inl ⟨_, rfl⟩
    | ok b => exact ih

/-- What an accessor can do. -/
theorem accessor_cases {r : DataReg} {v : Option Word} {s t : State} (h : accessor r v s = .next t) :
    (s.rdValid = true ∧ ∃ d, v = some d ∧ t = s.succeed d) ∨ (s.rdValid = false ∧ t = s.raise .noReading) := by
  unfold accessor at h
  split at h
  · rename_i hv
    obtain ⟨d, hd, h⟩ := readReg_eq_next h
    exact .inl ⟨hv, d, hd, (Host.Outcome.next.inj h).symm⟩
  · rename_i hv
    exact .inr ⟨by simpa using hv, (Host.Outcome.next.inj h).symm⟩

end Sys2Proof.Machine
end

