-- ==== Sys2Proof/Laws/Commands.lean ====
section
/-! SUPPORT. The micro-operations, the two sequenced commands and the step, each inverted once: what
holds of `t` if the outcome is `.next t`. -/

namespace Sys2Proof.Machine

/-- What a micro-operation can write. -/
theorem exec_uop_cases {i : Instr} {s t : State} (hi : i.isUop = true) (h : exec i s = .next t) :
    (i = .calfetch ∧ ∃ m rd dr r l, t = { s with
      calbuf := m, result := some r, reads := rd, draws := dr, busLog := l ++ s.busLog }) ∨
    (i = .caldec ∧ ∃ c, calDec s.calbuf = some c ∧ t = { s with stg := some c }) ∨
    (i = .calcommit ∧ ∃ c, s.stg = some c ∧ t = { s with coeffs := some c, calValid := true }) ∨
    (i = .burstrd ∧ ∃ b r dr l, t = { s with
      burst := b, result := some r, bursts := s.bursts.tail, draws := dr, busLog := l :: s.busLog }) ∨
    (i = .rawdec ∧ ∃ b, s.burst = some b ∧
      t = { s with rawP := some (burstP b), rawT := some (burstT b), rawH := some (burstH b) }) ∨
    (i = .compt ∧ ∃ tf tc, t = { s with tFine := some tf, tc := some tc }) ∨
    (i = .compp ∧ ∃ pp, t = { s with pp := some pp }) ∨
    (i = .comph ∧ ∃ hh, t = { s with hh := some hh }) ∨
    (i = .publish ∧ ∃ tc p hh, s.tc = some tc ∧ s.pp = some (.pascals p) ∧ s.hh = some hh ∧
      t = { s with tempCenti := some tc, pressPa := some p, humQ10 := some hh, rdValid := true }) := by
  cases i <;> simp only [Instr.isUop, Bool.false_eq_true, exec] at hi h <;>
    simp only [reduceCtorEq, false_and, true_and, false_or, or_false]
  case calfetch =>
    obtain ⟨m, rd, dr, r, l, hu, _⟩ := calFetch_cases h
    exact ⟨m, rd, dr, r, l, hu⟩
  case caldec =>
    obtain ⟨c, hc, h⟩ := readReg_eq_next h
    exact ⟨c, hc, (Host.Outcome.next.inj h).symm⟩
  case calcommit =>
    obtain ⟨c, hc, h⟩ := readReg_eq_next h
    exact ⟨c, hc, (Host.Outcome.next.inj h).symm⟩
  case burstrd =>
    unfold execBurstrd at h
    split at h <;> cases h
    · exact ⟨_, _, _, _, rfl⟩
    · exact ⟨_, _, _, _, rfl⟩
  case rawdec =>
    obtain ⟨b, hb, h⟩ := readReg_eq_next h
    exact ⟨b, hb, (Host.Outcome.next.inj h).symm⟩
  case compt =>
    obtain ⟨_, _, h⟩ := readReg_eq_next h
    obtain ⟨_, _, h⟩ := readReg_eq_next h
    exact ⟨_, _, (Host.Outcome.next.inj h).symm⟩
  case compp =>
    obtain ⟨_, _, h⟩ := readReg_eq_next h
    obtain ⟨_, _, h⟩ := readReg_eq_next h
    obtain ⟨_, _, h⟩ := readReg_eq_next h
    exact ⟨_, (Host.Outcome.next.inj h).symm⟩
  case comph =>
    obtain ⟨_, _, h⟩ := readReg_eq_next h
    obtain ⟨_, _, h⟩ := readReg_eq_next h
    obtain ⟨_, _, h⟩ := readReg_eq_next h
    exact ⟨_, (Host.Outcome.next.inj h).symm⟩
  case publish =>
    obtain ⟨tc, htc, h⟩ := readReg_eq_next h
    obtain ⟨p, hp, h⟩ := readReg_eq_next h
    obtain ⟨hh, hhh, h⟩ := readReg_eq_next h
    exact ⟨tc, p, hh, htc, State.heldPressure_eq_some.mp hp, hhh, (Host.Outcome.next.inj h).symm⟩

/-- What `LOADCAL` can do: refuse, load, or end at the first failing read. -/
theorem execLoadcal_cases {s t : State} (h : execLoadcal s = .next t) :
    (s.calValid = true ∧ t = s.raise .alreadyLoaded) ∨
    (s.calValid = false ∧ ∃ m rd dr l,
      (Memory.wf s.calbuf → Memory.wf m) ∧
      (∀ x ∈ m, x ∈ s.calbuf ∨ ∃ a ∈ Config.calAddrs, x.1 = a.toNat) ∧
      ((∃ c, calDec m = some c ∧
          l = (Config.calAddrs.map fun a => (⟨Config.devAddr, a, 1, true⟩ : Transaction)).reverse ∧
          t = completeLoad { s with
            calbuf := m, reads := rd, draws := dr, busLog := l ++ s.busLog, coeffs := some c, calValid := true }) ∨
        ((∃ n, ∃ hn : n < Config.calAddrs.length,
            l = ⟨Config.devAddr, Config.calAddrs[n], 1, false⟩ ::
              ((Config.calAddrs.take n).map fun a => (⟨Config.devAddr, a, 1, true⟩ : Transaction)).reverse) ∧
          t = abortLoad { s with calbuf := m, reads := rd, draws := dr, busLog := l ++ s.busLog }))) := by
  unfold execLoadcal at h
  split at h
  · rename_i hv
    exact .inl ⟨hv, (Host.Outcome.next.inj h).symm⟩
  · rename_i hv
    refine .inr ⟨by simpa using hv, ?_⟩
    rw [runMicro_step (a := ⟨.loadcal, 0⟩) rfl rfl] at h
    obtain ⟨u, hu, h⟩ := andThen_eq_next h
    obtain ⟨w, hw, hu⟩ := andThen_eq_next hu
    obtain ⟨m, rd, dr, r, l, rfl, hwf, hmem, hkeep, hc⟩ := calFetch_cases hw
    refine ⟨m, rd, dr, l, hwf, hmem, ?_⟩
    rcases hc with ⟨rfl, hall, hl⟩ | ⟨rfl, n, hn, hl⟩
    · have hd : calDec m = some (decodeImage (Memory.image m)) :=
        calDec_eq_some.mpr ⟨by rw [Memory.complete, List.all_eq_true]; exact hall, rfl⟩
      refine .inl ⟨_, hd, hl, ?_⟩
      simp only [sequencer, readReg_some, Host.Outcome.next.injEq] at hu
      subst hu
      rw [runMicro_step (a := ⟨.loadcal, 1⟩) rfl rfl] at h
      simp only [uopMeaning, execCaldec, State.advance_calbuf, hd, readReg_some, andThen_next, sequencer] at h
      rw [runMicro_step (a := ⟨.loadcal, 2⟩) rfl rfl] at h
      simp only [uopMeaning, execCalcommit, State.advance_stg, readReg_some, andThen_next, sequencer] at h
      rw [runMicro_idle rfl] at h
      cases h
      simp [completeLoad, State.quit, State.succeed]
    · refine .inr ⟨⟨n, hn, hl⟩, ?_⟩
      simp only [sequencer, readReg_some, Host.Outcome.next.injEq] at hu
      subst hu
      rw [runMicro_idle rfl] at h
      cases h
      simp [abortLoad, State.raise, State.record, State.quit]

/-- What `READCOMP` can do: refuse, fail at the burst, end `UNAVAILABLE`, or publish. -/
theorem execReadcomp_cases {s t : State} (h : execReadcomp s = .next t) :
    (s.ss = .uninitialized ∧ t = s.raise .notReady) ∨
    (s.ss ≠ .uninitialized ∧
      ((s.nextBurst = .fail ∧ t = abortCycle .ioFailure (s.takeBurst false)) ∨
        ∃ b c, s.nextBurst = .ok b ∧ s.coeffs = some c ∧
          ((cycleP b c = .unavailable ∧
              t = abortCycle .unavailable { s.takeBurst true with
                burst := some b, rawP := some (burstP b), rawT := some (burstT b), rawH := some (burstH b)
                tFine := some (cycleT b c).2 }) ∨
            ∃ p, cycleP b c = .pascals p ∧
              t = completeCycle { s.takeBurst true with
                burst := some b, rawP := some (burstP b), rawT := some (burstT b), rawH := some (burstH b)
                tFine := some (cycleT b c).2
                tempCenti := some (cycleT b c).1, pressPa := some p, humQ10 := some (cycleH b c), rdValid := true }))) := by
  unfold execReadcomp at h
  split at h
  · rename_i hu
    exact .inl ⟨hu, (Host.Outcome.next.inj h).symm⟩
  · rename_i hu
    refine .inr ⟨hu, ?_⟩
    have hn : (s.accept .readcomp).nextBurst = s.nextBurst := rfl
    rw [runMicro_step (a := ⟨.readcomp, 0⟩) rfl rfl] at h
    cases hb : s.nextBurst with
    | silent => simp [uopMeaning, execBurstrd, hn, hb] at h
    | fail =>
      simp only [uopMeaning, execBurstrd, hn, hb, andThen_next, sequencer, readReg_some] at h
      rw [runMicro_idle rfl] at h
      cases h
      simp [abortCycle, State.raise, State.record, State.quit, State.takeBurst, State.accept]
    | ok b =>
      simp only [uopMeaning, execBurstrd, hn, hb, andThen_next, sequencer, readReg_some] at h
      rw [runMicro_step (a := ⟨.readcomp, 1⟩) rfl rfl] at h
      simp only [uopMeaning, execRawdec, andThen_next, sequencer, readReg_some, State.advance_burst] at h
      rw [runMicro_step (a := ⟨.readcomp, 2⟩) rfl rfl] at h
      cases hc : s.coeffs with
      | none => simp [uopMeaning, execCompt, hc] at h
      | some c =>
        refine .inr ⟨b, c, rfl, rfl, ?_⟩
        simp only [uopMeaning, execCompt, andThen_next, sequencer, readReg_some, State.advance_rawT,
          State.advance_coeffs, State.takeBurst_coeffs, State.accept_coeffs, hc] at h
        rw [runMicro_step (a := ⟨.readcomp, 3⟩) rfl rfl] at h
        simp only [uopMeaning, execCompp, andThen_next, sequencer, readReg_some, State.advance_rawP,
          State.advance_tFine, State.advance_coeffs] at h
        have hcy : compPOf (raw20 b.b0 b.b1 b.b2)
            (compT (zext32 20 (raw20 b.b3 b.b4 b.b5)) (c.get .t1) (c.get .t2) (c.get .t3)).2 c = cycleP b c := by
          rw [cycleP, cycleT, burstP, burstT]
        rw [hcy] at h
        cases hp : cycleP b c with
        | unavailable =>
          simp only [hp] at h
          rw [andThen_next, runMicro_idle rfl] at h
          cases h
          simp [abortCycle, State.advance, State.raise, State.record, State.quit, State.takeBurst, State.accept, cycleT,
            burstP, burstT, burstH, hc]
        | pascals p =>
          simp only [hp] at h
          rw [andThen_next, runMicro_step (a := ⟨.readcomp, 4⟩) rfl rfl] at h
          simp only [uopMeaning, execComph, andThen_next, sequencer, readReg_some, State.advance_rawH,
            State.advance_tFine, State.advance_coeffs] at h
          rw [runMicro_step (a := ⟨.readcomp, 5⟩) rfl rfl] at h
          simp only [uopMeaning, execPublish, andThen_next, sequencer, readReg_some, State.advance_tc,
            State.heldPressure, State.advance_pp, State.advance_hh, runMicro, Host.Outcome.next.injEq] at h
          refine .inr ⟨p, rfl, ?_⟩
          subst h
          simp [completeCycle, State.succeed, State.advance, State.quit, State.takeBurst, State.accept, cycleT, burstP,
            burstT, burstH, cycleH, hc]

/-- What a step can do: take a reset, run the micro-operation at `UPC`, run a command, refuse an illegal
byte, or wait. -/
theorem step_cases {s t : State} (h : step s = .next t) :
    (∃ rest, s.port = .reset :: rest ∧ t = ({ s with port := rest } : State).applyReset) ∨
    (∃ a i, s.active = some a ∧ uopAt a = some i ∧ andThen (exec i s) (sequencer i) = .next t) ∨
    (∃ b rest i, s.active = none ∧ s.port = .command b :: rest ∧ decodeHost b = some i ∧
      exec i { s with port := rest } = .next t) ∨
    (∃ b rest, s.active = none ∧ s.port = .command b :: rest ∧ decodeHost b = none ∧
      t = illegalCommand { s with port := rest }) ∨
    (s.active = none ∧ s.port = [] ∧ t = s) := by
  unfold step at h
  cases hp : s.port with
  | nil =>
    cases ha : s.active with
    | none =>
      simp only [fetch, hp, ha, Host.Outcome.next.injEq] at h
      exact .inr (.inr (.inr (.inr ⟨rfl, rfl, h.symm⟩)))
    | some a =>
      cases hi : uopAt a with
      | none => simp [fetch, hp, ha, hi] at h
      | some i =>
        simp only [fetch, hp, ha, hi] at h
        exact .inr (.inl ⟨a, i, rfl, hi, h⟩)
  | cons e rest =>
    cases e with
    | reset =>
      simp only [fetch, hp, Host.Outcome.next.injEq] at h
      exact .inl ⟨rest, rfl, h.symm⟩
    | command b =>
      cases ha : s.active with
      | none =>
        cases hd : decodeHost b with
        | none =>
          simp only [fetch, hp, ha, hd, Host.Outcome.next.injEq] at h
          exact .inr (.inr (.inr (.inl ⟨b, rest, rfl, rfl, hd, h.symm⟩)))
        | some i =>
          simp only [fetch, hp, ha, hd] at h
          exact .inr (.inr (.inl ⟨b, rest, i, rfl, rfl, hd, h⟩))
      | some a =>
        cases hi : uopAt a with
        | none => simp [fetch, hp, ha, hi] at h
        | some i =>
          simp only [fetch, hp, ha, hi] at h
          exact .inr (.inl ⟨a, i, rfl, hi, h⟩)

end Sys2Proof.Machine
end

