-- ==== Sys2Proof/Laws/PerInstr.lean ====
section
/-! SUPPORT. Statements about every operation as syntax, one lemma for each constructor. -/

namespace Sys2Proof.Laws.Place

/-- R88, R90, R91: the code of an operation is taken on the command port exactly if it is a host
command, inside the sequencer exactly if it is a micro-operation, and it is one of the two. -/
def Statement (i : Instr) : Prop :=
  (decodeHost (encode i)).isSome = i.isHost ∧ (decodeUop (encode i)).isSome = i.isUop ∧ i.isUop = !i.isHost

theorem loadcal : Statement .loadcal := ⟨rfl, rfl, rfl⟩
theorem readcomp : Statement .readcomp := ⟨rfl, rfl, rfl⟩
theorem gett : Statement .gett := ⟨rfl, rfl, rfl⟩
theorem getp : Statement .getp := ⟨rfl, rfl, rfl⟩
theorem geth : Statement .geth := ⟨rfl, rfl, rfl⟩
theorem getstat : Statement .getstat := ⟨rfl, rfl, rfl⟩
theorem calfetch : Statement .calfetch := ⟨rfl, rfl, rfl⟩
theorem caldec : Statement .caldec := ⟨rfl, rfl, rfl⟩
theorem calcommit : Statement .calcommit := ⟨rfl, rfl, rfl⟩
theorem burstrd : Statement .burstrd := ⟨rfl, rfl, rfl⟩
theorem rawdec : Statement .rawdec := ⟨rfl, rfl, rfl⟩
theorem compt : Statement .compt := ⟨rfl, rfl, rfl⟩
theorem compp : Statement .compp := ⟨rfl, rfl, rfl⟩
theorem comph : Statement .comph := ⟨rfl, rfl, rfl⟩
theorem publish : Statement .publish := ⟨rfl, rfl, rfl⟩

end Sys2Proof.Laws.Place
end

