-- ==== Sys2Proof/Tests/Slice0.lean ====
section
/-! SUPPORT. The model's own tests. Every expected value is taken from spec/95_test_vectors.md (the
vector's name stands at the test) or from the encoding tables of spec/30_encoding.md. -/

namespace Sys2Proof.Tests

open Sys2Proof.Machine

/-! ### Well-formedness: each check refuses an ill-formed term -/

theorem test_port_refuses_uop : Instr.isHost .compt = false := by decide
theorem test_microprogram_refuses_host_command : Instr.isUop .loadcal = false := by decide
theorem test_line_refuses_uop : Line.wellFormed (.cmd .publish) = false := by decide
theorem test_program_refuses_uop : hostProgramWellFormed [.init, .cycle, .cmd .calfetch] = false := by decide
theorem test_microprogram_wf_refuses : microprogramWellFormed [.burstrd, .gett] = false := by decide
theorem test_program_accepts : hostProgramWellFormed [.init, .cycle, .cmd .getstat] = true := by decide

/-! ### Decoding, from the tables of R88 and R91 -/

theorem test_decode_loadcal : decodeHost 0b00000001#8 = some .loadcal := by decide
theorem test_decode_readcomp : decodeHost 0b00000010#8 = some .readcomp := by decide
theorem test_decode_gett : decodeHost 0b00000100#8 = some .gett := by decide
theorem test_decode_getp : decodeHost 0b00000101#8 = some .getp := by decide
theorem test_decode_geth : decodeHost 0b00000110#8 = some .geth := by decide
theorem test_decode_getstat : decodeHost 0b00000111#8 = some .getstat := by decide
theorem test_decode_calfetch : decodeUop 0b00010000#8 = some .calfetch := by decide
theorem test_decode_caldec : decodeUop 0b00010001#8 = some .caldec := by decide
theorem test_decode_calcommit : decodeUop 0b00010010#8 = some .calcommit := by decide
theorem test_decode_burstrd : decodeUop 0b00100000#8 = some .burstrd := by decide
theorem test_decode_rawdec : decodeUop 0b00100001#8 = some .rawdec := by decide
theorem test_decode_compt : decodeUop 0b00110000#8 = some .compt := by decide
theorem test_decode_compp : decodeUop 0b00110001#8 = some .compp := by decide
theorem test_decode_comph : decodeUop 0b00110010#8 = some .comph := by decide
theorem test_decode_publish : decodeUop 0b00110011#8 = some .publish := by decide

/-- R90: a gap, the byte after the last command, and a micro-operation code (V-S5) on the port. -/
theorem test_decode_illegal : [0x00#8, 0x03#8, 0x08#8, 0x30#8, 0xFF#8].map decodeHost = [none, none, none, none, none] := by
  decide

/-- R90: the rows of the two tables do not meet. -/
theorem test_table_codes_distinct : ((hostTable ++ uopTable).map Prod.fst).Nodup := by decide

/-- P1: `INIT`, `CYCLE`, `GETSTAT` encodes as `01 02 04 05 06 07`. -/
theorem test_assemble_p1 :
    assemble [.init, .cycle, .cmd .getstat] = [0x01#8, 0x02#8, 0x04#8, 0x05#8, 0x06#8, 0x07#8] := by decide

/-- R94: a comment after `;` is no part of the line, and a micro-operation has no line. -/
theorem test_parse_line :
    [parseLine "READCOMP    ; burst B0".toList, parseLine "CYCLE".toList, parseLine "COMPT".toList]
      = [some (.cmd .readcomp), some .cycle, none] := by decide

/-! ### Arithmetic: V-A2, V-A5, V-A7, V-A8, V-A13, V-A14, V-A16, V-A18, V-A19 -/

theorem test_arith_wraps :
    [add32 2147483647#32 1#32, mul32 46341#32 46341#32, mul32 0x80000000#32 (wrap32 (-1)), shl32 4095#32 20]
      = [wrap32 (-2147483648), wrap32 (-2147479015), wrap32 (-2147483648), wrap32 (-1048576)] := by decide

theorem test_arith_shifts :
    [asr32 (wrap32 (-5)) 1, asr32 (wrap32 (-1454136480)) 11, lsr32 0xFFFFFFFF#32 3,
      mul32 3276800000#32 2#32, udiv32 3673406250#32 36471#32]
      = [wrap32 (-3), wrap32 (-710028), 536870911#32, 2258632704#32, 100721#32] := by decide

/-! ### The example calibration IMG0, its bursts, and small states -/

/-- IMG0 in the read order of R69. -/
def img0 : List Byte :=
  [0x70#8, 0x6B#8, 0x43#8, 0x67#8, 0x18#8, 0xFC#8, 0x7D#8, 0x8E#8, 0x43#8, 0xD6#8, 0xD0#8, 0x0B#8,
   0x27#8, 0x0B#8, 0x8C#8, 0x00#8, 0xF9#8, 0xFF#8, 0x8C#8, 0x3C#8, 0xF8#8, 0xC6#8, 0x70#8, 0x17#8] ++
  [0x4B#8, 0x6F#8, 0x01#8, 0x00#8, 0x12#8, 0x2D#8, 0x03#8, 0x1E#8]

/-- The example calibration: T, P and H of 95_test_vectors.md. -/
def exampleCal : Coeffs where
  t1 := 27504#16
  t2 := 26435#16
  t3 := BitVec.ofInt 16 (-1000)
  p1 := 36477#16
  p2 := BitVec.ofInt 16 (-10685)
  p3 := 3024#16
  p4 := 2855#16
  p5 := 140#16
  p6 := BitVec.ofInt 16 (-7)
  p7 := 15500#16
  p8 := BitVec.ofInt 16 (-14600)
  p9 := 6000#16
  h1 := 75#8
  h2 := 367#16
  h3 := 0#8
  h4 := 301#16
  h5 := 50#16
  h6 := 30#8

/-- The burst B0. -/
def burst0 : Burst := ⟨0x65#8, 0x5A#8, 0xC0#8, 0x7E#8, 0xED#8, 0x00#8, 0x76#8, 0x49#8⟩

/-- The burst B1 of program P3. -/
def burst1 : Burst := ⟨0x65#8, 0x5A#8, 0xC0#8, 0x7A#8, 0x12#8, 0x00#8, 0x76#8, 0x49#8⟩

/-- Reset, with a scripted calibration image. -/
def withImage (l : List (Answer Byte)) : State := { State.reset with reads := l }

/-- `Ready` with the calibration `c` and one scripted burst. -/
def readyWith (c : Coeffs) (b : Answer Burst) : State :=
  { State.reset with ss := .ready, coeffs := some c, calValid := true, bursts := [b] }

/-- A value of the next state, if there is one. -/
def after {α : Type} (o : Out) (f : State → α) : Option α := (nextOf o).map f

/-! ### LOADCAL and its micro-operations -/

/-- V-C1. -/
theorem test_loadcal_img0 :
    after (exec .loadcal (withImage (img0.map .ok))) (fun t => (t.coeffs, t.statusWord, t.responses, t.busLog.length))
      = some (some exampleCal, 0x0000000A#32, [.ok 0#32], 32) := by decide +kernel

/-- V-C4: 29 reads succeed, the 30th fails, two are not made. -/
theorem test_loadcal_fail_e5 :
    after (exec .loadcal (withImage ((img0.take 29).map .ok ++ [.fail])))
      (fun t => (t.coeffs, t.statusWord, t.responses, t.busLog.length, t.busLog.head?))
      = some (none, 0x00000240#32, [.ended .ioFailure], 30, some ⟨0x76#7, 0xE5#8, 1, false⟩) := by decide +kernel

/-- V-C2, the image of 32 bytes 0xFF, through `CALDEC`. -/
theorem test_caldec_all_ff :
    (decodeImage fun _ => 0xFF#8)
      = ⟨65535#16, 0xFFFF#16, 0xFFFF#16, 65535#16, 0xFFFF#16, 0xFFFF#16, 0xFFFF#16, 0xFFFF#16, 0xFFFF#16, 0xFFFF#16,
          0xFFFF#16, 0xFFFF#16, 255#8, 0xFFFF#16, 255#8, 4095#16, 4095#16, 0xFF#8⟩ := by decide

/-- V-C5: status 0x0000048A. -/
theorem test_loadcal_again :
    after (exec .loadcal (readyWith exampleCal .fail)) (fun t => (t.statusWord, t.responses, t.busLog))
      = some (0x0000048A#32, [.ended .alreadyLoaded], []) := by decide

/-- V-D3, V-D5, V-D6, V-D8, V-D9, V-D10. -/
theorem test_decode_functions :
    [decU16LE 0x00#8 0x80#8, decS16LE 0x00#8 0x80#8, decS16LE 0xFF#8 0x7F#8, decS16LE 0x43#8 0xD6#8, decU8 0x80#8,
      decS8 0x80#8] = [32768#32, wrap32 (-32768), 32767#32, wrap32 (-10685), 128#32, wrap32 (-128)] := by decide

/-- S1 (the source's own example), V-D14, V-D15, V-D16, V-D17. -/
theorem test_decode_h4_h5 :
    [decH4 0x12#8 0x34#8, decH5 0x56#8 0x34#8, decH4 0x12#8 0x2D#8, decH5 0x03#8 0x2D#8, decH5 0xFF#8 0x0F#8,
      decH5 0x00#8 0xF0#8, decH5 0x80#8 0x00#8]
      = [0x124#32, 0x563#32, 301#32, 50#32, 4080#32, 15#32, 2048#32] := by decide

theorem test_calcommit :
    after (exec .calcommit { State.reset with stg := some exampleCal }) (fun t => (t.coeffs, t.calValid))
      = some (some exampleCal, true) := by decide

/-! ### Raw samples: V-R1, V-R4, V-R5 -/

theorem test_burstrd :
    after (exec .burstrd (readyWith exampleCal (.ok burst0))) (fun t => (t.burst, t.result, t.busLog))
      = some (some burst0, some .ok, [⟨0x76#7, 0xF7#8, 8, true⟩]) := by decide

theorem test_rawdec :
    after (exec .rawdec { State.reset with burst := some ⟨0x12#8, 0x34#8, 0x56#8, 0x78#8, 0x9A#8, 0xBC#8, 0xDE#8, 0xF0#8⟩ })
      (fun t => (t.rawP, t.rawT, t.rawH)) = some (some 0x12345#20, some 0x789AB#20, some 0xDEF0#16) := by decide

theorem test_rawdec_ignores_low_nibbles :
    let b : Burst := ⟨0x65#8, 0x5A#8, 0xCF#8, 0x7E#8, 0xED#8, 0x0F#8, 0x76#8, 0x49#8⟩
    (burstP b, burstT b, burstH b) = (415148#20, 519888#20, 30281#16) := by decide

/-! ### Temperature: V-T1, V-T2, V-T3, V-T11, V-T13, V-T10b -/

theorem test_compt_example :
    [0, 519888, 1048575].map (fun a => compT (BitVec.ofNat 32 a) 27504#32 26435#32 (wrap32 (-1000)))
      = [(wrap32 (-14088), wrap32 (-721301)), (2508#32, 128422#32), (18755#32, 960246#32)] := by decide

theorem test_compt_wraps :
    [compT 1048575#32 0#32 32767#32 32767#32, compT 1048575#32 65535#32 (wrap32 (-32768)) (wrap32 (-32768)),
      compT 741456#32 0#32 0#32 1#32]
      = [(wrap32 (-3), wrap32 (-144)), (0#32, wrap32 (-16)), (wrap32 (-1), wrap32 (-32))] := by decide

/-! ### Pressure: V-P1, V-P2, V-P3, V-P10; V-P4, V-P5, V-P11, V-P16, V-P17 -/

/-- `COMPP` with the example calibration but for P1 and P2. -/
def pressWith (p1 p2 p3 : BitVec 16) (raw : BitVec 20) (tf : Int) : Pressure :=
  compPOf raw (wrap32 tf) { exampleCal with p1 := p1, p2 := p2, p3 := p3 }

theorem test_compp_example :
    [compPOf 415148#20 128422#32 exampleCal, compPOf 0#20 128422#32 exampleCal, compPOf 1048575#20 128422#32 exampleCal,
      compPOf 0#20 (wrap32 (-721301)) exampleCal]
      = [.pascals 100656#32, .pascals 173204#32, .pascals 231379#32, .pascals 173435#32] := by decide

theorem test_compp_denominator :
    [pressWith 0#16 (BitVec.ofInt 16 (-10685)) 3024#16 415148#20 128422,
      pressWith 1#16 (BitVec.ofInt 16 (-10685)) 3024#16 415148#20 128422,
      pressWith 2#16 (BitVec.ofInt 16 (-10685)) 3024#16 415148#20 128422,
      pressWith 65535#16 32767#16 0#16 415148#20 128422,
      compPOf 0#20 0#32 { (default : Coeffs) with p1 := 1#16 }]
      = [.unavailable, .unavailable, .pascals 0xDAF40164#32, .pascals 968#32, .pascals 2258632704#32] := by decide

/-! ### Humidity: V-H1, V-H3, V-H9, V-H13; V-H15, V-H17, V-H20 -/

theorem test_comph_example :
    [compHOf 30281#16 128422#32 exampleCal, compHOf 65535#16 128422#32 exampleCal, compHOf 37132#16 128422#32 exampleCal,
      compHOf 30281#16 (wrap32 (-721301)) exampleCal] = [63145#32, 102400#32, 102391#32, 49273#32] := by decide

theorem test_comph_extreme :
    [compHOf 30281#16 128422#32 { exampleCal with h5 := 2048#16 }, compHOf 30281#16 128422#32 { exampleCal with h4 := 4095#16 },
      compH 65535#32 2147483647#32 255#32 32767#32 255#32 4095#32 4095#32 127#32] = [26675#32, 102400#32, 0#32] := by decide

/-! ### READCOMP, PUBLISH and the accessors -/

/-- P1, command 2: status 0x01A and the end state. -/
theorem test_readcomp_p1 :
    after (exec .readcomp (readyWith exampleCal (.ok burst0)))
      (fun t => ([t.tempCenti, t.pressPa, t.humQ10, t.tFine], t.statusWord, t.responses, t.active))
      = some ([some 2508#32, some 100656#32, some 63145#32, some 128422#32], 0x0000001A#32, [.ok 0#32], none) := by decide

/-- P3, command 3: status 0x13A; the hidden registers hold the new cycle's values, the reading is the old one. -/
theorem test_readcomp_p3_unavailable :
    after (exec .readcomp { readyWith { exampleCal with p1 := 1#16, p2 := 100#16, p3 := 0#16 } (.ok burst1) with
        rdValid := true, tempCenti := some 2508#32, pressPa := some 0xDAF40164#32, humQ10 := some 63145#32 })
      (fun t => ([t.tempCenti, t.pressPa, t.humQ10, t.tFine], t.rawT, t.statusWord, t.responses))
      = some ([some 2508#32, some 0xDAF40164#32, some 63145#32, some 96494#32], some 500000#20, 0x0000013A#32,
          [.ended .unavailable]) := by decide

theorem test_publish :
    after (exec .publish { State.reset with tc := some 2508#32, pp := some (.pascals 100656#32), hh := some 63145#32 })
      (fun t => (t.tempCenti, t.pressPa, t.humQ10, t.rdValid)) = some (some 2508#32, some 100656#32, some 63145#32, true) := by
  decide

/-- P1, commands 3 to 5. -/
theorem test_accessors_p1 :
    let s := { readyWith exampleCal .fail with
      rdValid := true, tempCenti := some 2508#32, pressPa := some 100656#32, humQ10 := some 63145#32 }
    [Instr.gett, .getp, .geth].map (fun i => after (exec i s) (fun t => (t.responses, t.statusWord)))
      = [some ([.ok 0x000009CC#32], 0x0000001A#32), some ([.ok 0x00018930#32], 0x0000001A#32),
          some ([.ok 0x0000F6A9#32], 0x0000001A#32)] := by decide

/-- P2, command 5: status 0x5CA. -/
theorem test_gett_no_reading :
    after (exec .gett { readyWith exampleCal .fail with ioFail := true, refused := true })
      (fun t => (t.responses, t.statusWord)) = some ([.ended .noReading], 0x000005CA#32) := by decide

/-- P5, command 6: status 0x25A. -/
theorem test_getstat_after_io_failure :
    after (exec .getstat { readyWith exampleCal .fail with rdValid := true, ioFail := true, lastStatus := .ended .ioFailure })
      (fun t => (t.responses, t.lastStatus)) = some ([.ok 0x0000025A#32], .ended .ioFailure) := by decide

/-! ### Steps: V-S2, V-S5, reset, waiting, and each row as the first operation after reset -/

theorem test_step_readcomp_not_ready :
    after (step { State.reset with port := [.command 0x02#8] }) (fun t => (t.responses, t.statusWord, t.port))
      = some ([.ended .notReady], 0x00000380#32, []) := by decide

theorem test_step_uop_code_on_port :
    after (step { State.reset with port := [.command 0x30#8] }) (fun t => (t.responses, t.statusWord))
      = some ([.ended .illegalCmd], 0x00000680#32) := by decide

theorem test_step_reset_abandons :
    after (step { (readyWith exampleCal .fail).accept .readcomp with port := [.reset], ioFail := true })
      (fun t => (t.active, t.ss, t.coeffs, t.statusWord, t.responses)) = some (none, .uninitialized, none, 0#32, []) := by
  decide

theorem test_step_waits : after (step State.reset) id = some State.reset := by decide

/-- Every row of the table, placed after reset, decodes and is run by the next step. -/
theorem test_each_row_runs_first :
    [0x01, 0x02, 0x04, 0x05, 0x06, 0x07, 0x10, 0x11, 0x12, 0x20, 0x21, 0x30, 0x31, 0x32, 0x33].all
      (fun w => (decodeTableWord 8 w).isSome && (nextOf (step (State.reset.withFetchWord 8 w))).isSome) = true := by
  decide +kernel

/-! ### Witnesses: for each statement that has hypotheses, a state and operands that meet all of them -/

theorem exists_of_after {α : Type} {o : Out} {f : State → α} {a : α} (h : after o f = some a) :
    ∃ t, o = .next t ∧ f t = a := by
  cases o with
  | next t => exact ⟨t, rfl, by simpa [after, nextOf] using h⟩
  | fault r => simp [after, nextOf] at h
  | refused r => simp [after, nextOf] at h

/-- The byte that a list in read order holds for an address. -/
def imageOf (l : List Byte) (a : Addr) : Byte := ((Config.calAddrs.zip l).lookup a).getD 0#8

/-- Reset with the image IMG0 but the `n`-th read answered by `a`. -/
def imageBut (n : Nat) (a : Answer Byte) : State := withImage ((img0.take n).map .ok ++ [a])

/-- `Ready` with a published reading, the reading of P1. -/
def readyRead (b : Answer Burst) : State :=
  { readyWith exampleCal b with
    rdValid := true, tempCenti := some 2508#32, pressPa := some 100656#32, humQ10 := some 63145#32 }

/-- A calibration whose pressure denominator is 0 in every cycle (R141). -/
def zeroCal : Coeffs := { exampleCal with p1 := 0#16 }

theorem witness_LeftShift : (0 : Nat) ≤ 31 ∧ (31 : Nat) ≤ 31 := by decide

theorem witness_ArithmeticShift :
    (wrap32 (-5)).toInt < 0 ∧ ¬ (2 ^ 1 : Int) ∣ (wrap32 (-5)).toInt ∧ ¬ (2 ^ 31 : Int) ∣ (wrap32 (-5)).toInt := by decide

theorem witness_LogicalShift : (1#32 : Word) ≠ 0#32 ∧ (0xFFFFFFFF#32 : Word) ≠ 0#32 := by decide

theorem witness_MicroOperationCodes :
    decodeUop 0x10#8 = some .calfetch ∧ decodeUop 0x21#8 = some .rawdec ∧ decodeUop 0x33#8 = some .publish := by decide

theorem witness_DecodeAndEncode :
    Instr.isHost .loadcal = true ∧ Instr.isUop .publish = true ∧ decode 0x07#8 = some .getstat := by decide

theorem witness_AssembledProgram : hostProgramWellFormed [.init, .cycle, .cmd .getstat] = true := by decide

theorem witness_EveryCommandGivesOneResponse :
    Instr.isHost .readcomp = true ∧ ∃ t, exec .readcomp (readyWith exampleCal (.ok burst0)) = .next t ∧ t.ss = .ready :=
  ⟨by decide, exists_of_after (f := fun t => t.ss) (by decide)⟩

theorem witness_StepRunsTheAcceptedCommand :
    let s := { State.reset with port := [.command 0x01#8] }
    s.active = none ∧ s.port = [.command 0x01#8] ∧ decodeHost 0x01#8 = some .loadcal := by decide

theorem witness_StepRunsTheMicroOperation :
    let s := { State.reset.accept .loadcal with port := [.command 0x01#8] }
    s.active = some ⟨.loadcal, 0⟩ ∧ uopAt ⟨.loadcal, 0⟩ = some .calfetch ∧ ∀ rest, s.port ≠ .reset :: rest := by
  refine ⟨rfl, rfl, fun rest h => ?_⟩
  cases h

theorem witness_IllegalByte :
    let s := { State.reset with port := [.command 0xFF#8] }
    s.active = none ∧ s.port = [.command 0xFF#8] ∧ (0x08#8 ≤ (0x08#8 : Byte)) ∧ (0x08#8 ≤ (0xFF#8 : Byte)) := by decide

theorem witness_IdleBlock : State.reset.active = none ∧ State.reset.port = [] := by decide

theorem witness_ResetAbandons :
    let s := { (readyWith exampleCal .fail).accept .readcomp with port := [.reset] }
    s.port = [.reset] ∧ s.active = some ⟨.readcomp, 0⟩ := by decide

theorem witness_MicroprogramAdvances :
    let s := (readyWith exampleCal (.ok burst0)).accept .readcomp
    s.active = some ⟨.readcomp, 0⟩ ∧ uopAt ⟨.readcomp, 0⟩ = some .burstrd ∧
      ∃ t, andThen (exec .burstrd s) (sequencer .burstrd) = .next t ∧ t.active = some ⟨.readcomp, 1⟩ :=
  ⟨rfl, rfl, exists_of_after (f := fun t => t.active) (by decide)⟩

theorem witness_SteppingTheMicroprogram :
    (State.reset.port = [] ∧ State.reset.calValid = false) ∧
    (readyWith exampleCal (.ok burst0)).port = [] ∧ (readyWith exampleCal (.ok burst0)).ss ≠ .uninitialized := by decide

/-- Every read answered, the first read failing, the last read failing; also of `CalfetchFillsTheBuffer` and
`LoadcalFollowsItsRule`. -/
theorem witness_CalfetchReads :
    (∀ k (hk : k < Config.calAddrs.length), (withImage (img0.map .ok)).answerAt k = .ok (imageOf img0 Config.calAddrs[k])) ∧
    (imageBut 0 .fail).answerAt 0 = .fail ∧
    (∀ k (hk : k < 31), (imageBut 31 .fail).answerAt k =
      .ok (imageOf img0 (Config.calAddrs[k]'(Nat.lt_trans hk (by decide))))) ∧
    (imageBut 31 .fail).answerAt 31 = .fail := by decide +kernel

theorem witness_CalfetchFillsTheBuffer :
    (0x88#8 ∈ Config.calAddrs ∧ 0xE7#8 ∈ Config.calAddrs) ∧ (∀ a ∈ Config.calAddrs, 0xA0 ≠ a.toNat) ∧ Memory.wf [] := by
  decide

theorem witness_Caldec : Memory.complete (storeAll (imageOf img0) Config.calAddrs []) = true := by decide +kernel

theorem witness_EveryCalibrationHasAnImage :
    ({ exampleCal with h4 := 4095#16, h5 := 4095#16 } : Coeffs).ranged := by
  unfold Coeffs.ranged
  decide

theorem witness_Calcommit : ({ State.reset with stg := some exampleCal } : State).stg = some exampleCal := rfl

theorem witness_Loadcal :
    (readyWith exampleCal .fail).calValid = true ∧ (withImage (img0.map .ok)).calValid = false ∧
      (imageBut 0 .fail).calValid = false ∧ (imageBut 31 .fail).calValid = false := by decide

theorem witness_Burstrd :
    (readyWith exampleCal (.ok burst0)).nextBurst = .ok burst0 ∧ (readyWith exampleCal .fail).nextBurst = .fail := by decide

theorem witness_Rawdec : ({ State.reset with burst := some burst0 } : State).burst = some burst0 := rfl

/-- The operands of `COMPT`, `COMPP` and `COMPH`, at the ends of their ranges. -/
theorem witness_Compensation :
    let s := { readyWith exampleCal .fail with
      rawP := some 0xFFFFF#20, rawT := some 0#20, rawH := some 0xFFFF#16, tFine := some 0x80000000#32 }
    s.rawP = some 0xFFFFF#20 ∧ s.rawT = some 0#20 ∧ s.rawH = some 0xFFFF#16 ∧ s.tFine = some 0x80000000#32 ∧
      s.coeffs = some exampleCal := by decide

/-- V-P17: a negative denominator. -/
theorem witness_Denominator :
    (pressDen 128422#32 (zext32 16 65535#16) 32767#32 0#32).toInt = -65512 ∧
      (pressV1b 128422#32 (wrap32 (-10685)) 3024#32).toInt = -5 := by decide

theorem witness_TemperatureRounds :
    (-268435456 < (wrap32 (-268435455)).toInt) ∧ (wrap32 268435455).toInt < 268435456 := by decide

/-- `z2` below 0 (V-H20's operands), above the clamp (V-H3) and inside it (V-H1). -/
theorem witness_HumiditySaturates :
    (humPre 65535#32 2147483647#32 255#32 32767#32 255#32 4095#32 4095#32 127#32).toInt < 0 ∧
    (humPre 65535#32 128422#32 75#32 367#32 0#32 301#32 50#32 30#32).toInt ≥ 419430400 ∧
    (humPre 30281#32 128422#32 75#32 367#32 0#32 301#32 50#32 30#32).toInt = 258643097 := by decide

theorem witness_Monotonicity : (0#20 : BitVec 20) ≤ 0xFFFFF#20 := by decide

theorem witness_ReadsItsOwnCoefficients :
    exampleCal.t1 = zeroCal.t1 ∧ exampleCal.t2 = zeroCal.t2 ∧ exampleCal.t3 = zeroCal.t3 ∧ exampleCal.h1 = zeroCal.h1 ∧
      exampleCal.h6 = zeroCal.h6 ∧ exampleCal.p9 = ({ exampleCal with h1 := 0#8 } : Coeffs).p9 ∧ exampleCal ≠ zeroCal := by
  decide

theorem witness_Publish :
    let s := { State.reset with tc := some 0x80000000#32, pp := some (.pascals 0xFFFFFFFF#32), hh := some 102400#32 }
    s.tc = some 0x80000000#32 ∧ s.pp = some (.pascals 0xFFFFFFFF#32) ∧ s.hh = some 102400#32 := by decide

theorem witness_Readcomp :
    State.reset.ss = .uninitialized ∧
    ((readyWith exampleCal .fail).ss ≠ .uninitialized ∧ (readyWith exampleCal .fail).nextBurst = .fail) ∧
    ((readyWith zeroCal (.ok burst0)).ss ≠ .uninitialized ∧ (readyWith zeroCal (.ok burst0)).nextBurst = .ok burst0 ∧
      (readyWith zeroCal (.ok burst0)).coeffs = some zeroCal ∧ cycleP burst0 zeroCal = .unavailable) ∧
    (readyWith exampleCal (.ok burst0)).nextBurst = .ok burst0 ∧ cycleP burst0 exampleCal = .pascals 100656#32 := by decide

theorem witness_Accessors :
    ((readyRead .fail).rdValid = true ∧ (readyRead .fail).tempCenti = some 2508#32 ∧
      (readyRead .fail).pressPa = some 100656#32 ∧ (readyRead .fail).humQ10 = some 63145#32) ∧
    State.reset.rdValid = false := by decide

/-- Between commands and `Ready`: the invariant holds, with nothing read yet. -/
theorem readyWith_inv {c : Coeffs} (hc : c.ranged) (b : Answer Burst) (p : List PortEvent) :
    ({ readyWith c b with port := p } : State).Inv where
  bufferForm := List.Pairwise.nil
  bufferAddrs := by simp [readyWith, State.reset]
  coeffsHeld := rfl
  coeffsRanged := by
    intro d hd
    cases hd
    exact hc
  readingHeld := ⟨rfl, rfl, rfl⟩
  readingCoherent := by simp [readyWith, State.reset]
  inPlace := by
    simp [State.placed, readyWith, State.reset, State.between, State.noLocals, State.rawFromBurst]

theorem exampleCal_ranged : exampleCal.ranged := by
  unfold Coeffs.ranged
  decide

/-- `Ready` with an admitted `READCOMP` and a refused `LOADCAL`; `Uninitialized` with an admitted `LOADCAL`
that succeeds and one that fails, and a refused `READCOMP`. -/
theorem witness_SessionState :
    (readyWith exampleCal (.ok burst0)).active = none ∧ (readyWith exampleCal (.ok burst0)).ss = .ready ∧
    (∃ t, exec .readcomp (readyWith exampleCal (.ok burst0)) = .next t ∧ t.ss = .ready) ∧
    (∃ t, exec .loadcal (readyWith exampleCal (.ok burst0)) = .next t ∧ t.ss = .ready) ∧
    State.reset.active = none ∧ State.reset.ss = .uninitialized ∧
    (∃ t, exec .readcomp State.reset = .next t ∧ t.ss = .uninitialized) ∧
    (∃ t, exec .loadcal (withImage (img0.map .ok)) = .next t ∧ t.ss = .ready) ∧
    (∃ t, exec .loadcal (imageBut 0 .fail) = .next t ∧ t.ss = .uninitialized) ∧
    ∃ t, andThen (exec .rawdec { State.reset with burst := some burst0 }) (sequencer .rawdec) = .next t ∧
      t.ss = .compensate :=
  ⟨by decide, by decide, exists_of_after (f := fun t => t.ss) (by decide), exists_of_after (f := fun t => t.ss) (by decide),
    by decide, by decide, exists_of_after (f := fun t => t.ss) (by decide),
    exists_of_after (f := fun t => t.ss) (by decide +kernel), exists_of_after (f := fun t => t.ss) (by decide),
    exists_of_after (f := fun t => t.ss) (by decide)⟩

theorem witness_SessionState_inv : (readyWith exampleCal (.ok burst0)).Inv := readyWith_inv exampleCal_ranged _ []

/-- Two states with different histories and the same burst; `OK` and `UNAVAILABLE`. -/
theorem witness_SameBurst :
    (readyRead (.ok burst0)).coeffs = (readyWith exampleCal (.ok burst0)).coeffs ∧
    (readyRead (.ok burst0)).ss ≠ .uninitialized ∧ (readyRead (.ok burst0)).nextBurst = .ok burst0 ∧
    (∃ t, exec .readcomp (readyRead (.ok burst0)) = .next t ∧ t.lastStatus = .ok) ∧
    (∃ t, exec .readcomp (readyWith exampleCal (.ok burst0)) = .next t ∧ t.lastStatus = .ok) ∧
    ∃ t, exec .readcomp (readyWith zeroCal (.ok burst0)) = .next t ∧ t.lastStatus = .ended .unavailable :=
  ⟨by decide, by decide, by decide, exists_of_after (f := fun t => t.lastStatus) (by decide),
    exists_of_after (f := fun t => t.lastStatus) (by decide), exists_of_after (f := fun t => t.lastStatus) (by decide)⟩

theorem witness_FailedCycle :
    (readyRead .fail).rdValid = true ∧ (readyRead .fail).tempCenti = some 2508#32 ∧
    (readyRead .fail).pressPa = some 100656#32 ∧ (readyRead .fail).humQ10 = some 63145#32 ∧
    ∃ t, exec .readcomp (readyRead .fail) = .next t ∧ t.lastStatus = .ended .ioFailure :=
  ⟨by decide, by decide, by decide, by decide, exists_of_after (f := fun t => t.lastStatus) (by decide)⟩

/-- One command for each of the five non-OK endings a command can raise; the statements on endings, flags,
`LAST_STATUS`, writers and bus traffic share these. -/
theorem witness_NonOkEndings :
    (∃ t, exec .readcomp (readyWith zeroCal (.ok burst0)) = .next t ∧ t.responses = [.ended .unavailable]) ∧
    (∃ t, exec .loadcal (imageBut 31 .fail) = .next t ∧ t.responses = [.ended .ioFailure]) ∧
    (∃ t, exec .readcomp State.reset = .next t ∧ t.responses = [.ended .notReady]) ∧
    (∃ t, exec .loadcal (readyWith exampleCal .fail) = .next t ∧ t.responses = [.ended .alreadyLoaded]) ∧
    ∃ t, exec .geth State.reset = .next t ∧ t.responses = [.ended .noReading] :=
  ⟨exists_of_after (f := fun t => t.responses) (by decide), exists_of_after (f := fun t => t.responses) (by decide +kernel),
    exists_of_after (f := fun t => t.responses) (by decide), exists_of_after (f := fun t => t.responses) (by decide),
    exists_of_after (f := fun t => t.responses) (by decide)⟩

theorem witness_PUnavail :
    (∃ t, exec .readcomp (readyWith zeroCal (.ok burst0)) = .next t ∧ t.lastStatus = .ended .unavailable) ∧
    (∃ t, exec .readcomp { readyWith exampleCal (.ok burst0) with pUnavail := true } = .next t ∧ t.lastStatus = .ok) ∧
    ∃ t, exec .readcomp (readyWith exampleCal .fail) = .next t ∧ t.lastStatus = .ended .ioFailure :=
  ⟨exists_of_after (f := fun t => t.lastStatus) (by decide), exists_of_after (f := fun t => t.lastStatus) (by decide),
    exists_of_after (f := fun t => t.lastStatus) (by decide)⟩

/-- `READCOMP` before its last micro-operation, with a reading to publish and `P_UNAVAIL` set. -/
def beforePublish : State :=
  { readyWith exampleCal .fail with
    ss := .compensate, active := some ⟨.readcomp, 5⟩, pUnavail := true
    tc := some 2508#32, pp := some (.pascals 100656#32), hh := some 63145#32 }

/-- `READCOMP` before `COMPP`, with a zero denominator. -/
def beforeUnavailable : State :=
  { readyWith zeroCal .fail with
    ss := .compensate, active := some ⟨.readcomp, 3⟩
    rawP := some 415148#20, tFine := some 128422#32, tc := some 2508#32 }

/-- Steps of a cycle that end it `OK`, `UNAVAILABLE` and, accepted at the port, `IO_FAILURE`; one outside a
cycle. -/
theorem witness_PUnavail_step :
    (beforePublish.atCycle ∧ ∃ t, step beforePublish = .next t ∧ t.responses = [.ok 0#32]) ∧
    (beforeUnavailable.atCycle ∧ ∃ t, step beforeUnavailable = .next t ∧ t.responses = [.ended .unavailable]) ∧
    (({ readyWith exampleCal .fail with port := [.command 0x02#8] } : State).atCycle ∧
      ∃ t, step { readyWith exampleCal .fail with port := [.command 0x02#8] } = .next t ∧
        t.responses = [.ended .ioFailure]) ∧
    ¬ ({ State.reset with port := [.command 0x07#8] } : State).atCycle :=
  ⟨⟨.inl ⟨5, rfl⟩, exists_of_after (f := fun t => t.responses) (by decide)⟩,
    ⟨.inl ⟨3, rfl⟩, exists_of_after (f := fun t => t.responses) (by decide)⟩,
    ⟨.inr ⟨rfl, [], rfl⟩, exists_of_after (f := fun t => t.responses) (by decide)⟩,
    by simp [State.atCycle, State.reset]⟩

/-- A step that sets `IOFAIL`, with `REFUSED` set before, and one that sets `REFUSED`. -/
theorem witness_StickyFlags :
    (∃ t, step { readyWith exampleCal .fail with refused := true, port := [.command 0x02#8] } = .next t ∧
      t.responses = [.ended .ioFailure]) ∧
    (∃ t, step { readyWith exampleCal .fail with ioFail := true, port := [.command 0x00#8] } = .next t ∧
      t.responses = [.ended .illegalCmd]) ∧
    ∀ rest, ([.command 0x02#8] : List PortEvent) ≠ .reset :: rest := by
  refine ⟨exists_of_after (f := fun t => t.responses) (by decide), exists_of_after (f := fun t => t.responses) (by decide),
    fun rest h => ?_⟩
  cases h

theorem witness_LastStatus :
    Instr.isHost .gett = true ∧ Instr.gett ≠ .getstat ∧
    (∃ t, exec .gett (readyRead .fail) = .next t ∧ t.lastStatus = .ok) ∧
    ∃ t, exec .getstat (readyRead .fail) = .next t ∧ t.lastStatus = .ok :=
  ⟨by decide, by decide, exists_of_after (f := fun t => t.lastStatus) (by decide),
    exists_of_after (f := fun t => t.lastStatus) (by decide)⟩

/-- A `GETSTAT` step, a step that ends a command at a micro-operation, and one that ends none. -/
theorem witness_LastStatus_step :
    (({ readyRead .fail with port := [.command 0x07#8] } : State).atGetstat ∧
      ∃ t, step { readyRead .fail with port := [.command 0x07#8] } = .next t ∧ t.lastStatus = .ok) ∧
    (¬ beforeUnavailable.atGetstat ∧
      ∃ t, step beforeUnavailable = .next t ∧ t.lastStatus = .ended .unavailable) ∧
    ∃ t, step State.reset = .next t ∧ t.responses = [] :=
  ⟨⟨⟨rfl, [], rfl⟩, exists_of_after (f := fun t => t.lastStatus) (by decide)⟩,
    ⟨by simp [State.atGetstat, beforeUnavailable], exists_of_after (f := fun t => t.lastStatus) (by decide)⟩,
    exists_of_after (f := fun t => t.responses) (by decide)⟩

theorem witness_UnansweredRead :
    (imageBut 0 .silent).answerAt 0 = .silent ∧
    (∀ k (hk : k < 31), (imageBut 31 .silent).answerAt k =
      .ok (imageOf img0 (Config.calAddrs[k]'(Nat.lt_trans hk (by decide))))) ∧
    (imageBut 31 .silent).answerAt 31 = .silent ∧ (imageBut 31 .silent).calValid = false ∧
    (readyWith exampleCal .silent).nextBurst = .silent ∧ (readyWith exampleCal .silent).ss ≠ .uninitialized := by
  decide +kernel

/-- One state for each clause: an operand is missing where those read before it are held. -/
theorem witness_MissingOperand :
    ({ State.reset with rdValid := true } : State).tempCenti = none ∧ Memory.complete State.reset.calbuf = false ∧
    State.reset.stg = none ∧ State.reset.burst = none ∧ State.reset.rawT = none ∧ State.reset.coeffs = none ∧
    ({ State.reset with rawT := some 0#20 } : State).rawT ≠ none ∧
    ({ State.reset with rawP := some 0#20, tFine := some 0#32 } : State).rawP ≠ none ∧
    ({ State.reset with rawH := some 0#16, tFine := some 0#32 } : State).tFine ≠ none ∧
    ({ State.reset with tc := some 0#32, pp := some .unavailable, hh := some 0#32 } : State).pp = some .unavailable ∧
    ({ State.reset with tc := some 0#32, pp := some (.pascals 0#32) } : State).hh = none ∧
    ({ State.reset with ss := .ready, bursts := [.ok burst0] } : State).nextBurst = .ok burst0 ∧
    uopAt ⟨.loadcal, 3⟩ = none ∧ uopAt ⟨.readcomp, 6⟩ = none := by decide +kernel

theorem witness_RegistersHaveTheirWriters :
    (∃ t, exec .compt { readyWith exampleCal .fail with rawT := some 519888#20 } = .next t ∧ t.tFine = some 128422#32) ∧
    Instr.isUop .compt = true ∧ Instr.compt ≠ .calcommit ∧ Instr.compt ≠ .loadcal :=
  ⟨exists_of_after (f := fun t => t.tFine) (by decide), by decide, by decide, by decide⟩

theorem witness_BusTraffic :
    (∃ t, exec .loadcal (withImage (img0.map .ok)) = .next t ∧ t.lastStatus = .ok) ∧
    (∃ t, exec .loadcal (imageBut 0 .fail) = .next t ∧ t.lastStatus = .ended .ioFailure) ∧
    (withImage (img0.map .ok)).calValid = false ∧ (imageBut 0 .fail).calValid = false ∧
    ∃ t, exec .readcomp (readyWith exampleCal .fail) = .next t ∧ t.busLog = [⟨0x76#7, 0xF7#8, 8, false⟩] :=
  ⟨exists_of_after (f := fun t => t.lastStatus) (by decide +kernel), exists_of_after (f := fun t => t.lastStatus) (by decide),
    by decide, by decide, exists_of_after (f := fun t => t.busLog) (by decide)⟩

/-- Also of `StepKeepsTheInvariant` and `OnlyAnUnansweredReadStops`. -/
theorem witness_CoefficientsAreImmutable :
    let s := { readyWith exampleCal (.ok burst0) with port := [.command 0x02#8] }
    s.Inv ∧ s.calValid = true ∧ (∀ rest, s.port ≠ .reset :: rest) ∧ ∃ t, step s = .next t ∧ t.lastStatus = .ok := by
  refine ⟨readyWith_inv exampleCal_ranged _ _, rfl, fun rest h => ?_,
    exists_of_after (f := fun t => t.lastStatus) (by decide)⟩
  cases h

end Sys2Proof.Tests
end

section
/-! Proofs of the statements about 00_scope.md, R7 to R10. The idea: `wrap32` is a ring map from the
integers onto the words, and a word is `wrap32` of each of its two readings; so a rule about an operation
on `wrap32` values holds for the signed and for the unsigned reading at once. -/

namespace Sys2Proof.Machine

/-! ### `wrap32` and the two readings of a word (R7) -/

@[simp] theorem wrap32_signedReading (w : Word) : wrap32 w.toInt = w := BitVec.ofInt_toInt

@[simp] theorem wrap32_unsignedReading (w : Word) : wrap32 w.toNat = w := by
  rw [wrap32, BitVec.ofInt_natCast, BitVec.ofNat_toNat, BitVec.setWidth_eq]

theorem wrap32_toNat (z : Int) : ((wrap32 z).toNat : Int) = z % 4294967296 := by
  rw [wrap32, BitVec.toNat_ofInt]
  exact Int.toNat_of_nonneg (Int.emod_nonneg z (by decide))

/-- `as_u32(a) = a mod 2^32`. -/
theorem unsignedReading_eq_emod (w : Word) : (w.toNat : Int) = w.toInt % 4294967296 := by
  rw [← wrap32_toNat, wrap32_signedReading]

theorem wrap32_eq_wrap32_iff (y z : Int) : wrap32 y = wrap32 z ↔ y ≡ z [ZMOD 4294967296] := by
  rw [← BitVec.toNat_inj, ← Int.natCast_inj, wrap32_toNat, wrap32_toNat, Int.ModEq]

/-- The uniqueness clause of R7, for either reading `r` of the word. -/
theorem eq_wrap32_iff_of_reading {w : Word} {r : Int} (hr : wrap32 r = w) (z : Int) :
    w = wrap32 z ↔ ∃ k : Int, r = z + k * 4294967296 := by
  rw [← hr, wrap32_eq_wrap32_iff, Int.modEq_comm, Int.modEq_iff_add_fac]
  simp only [mul_comm]

/-- Settles O1: both readings of a word are mapped back to it by `wrap32`, so each characterises it. -/
theorem wrapIsTheUniqueCongruentWord : Obligations.WrapIsTheUniqueCongruentWord := by
  intro w z
  have hlow : -2147483648 ≤ w.toInt := w.le_toInt
  have hhigh : w.toInt < 2147483648 := BitVec.toInt_lt
  have hunsigned : w.toNat < 4294967296 := w.isLt
  exact ⟨⟨hlow, by omega⟩, by omega,
    eq_wrap32_iff_of_reading (wrap32_signedReading w) z,
    eq_wrap32_iff_of_reading (wrap32_unsignedReading w) z,
    unsignedReading_eq_emod w, (wrap32_unsignedReading w).symm⟩

/-! ### The operations on wrapped integers (R8, R9) -/

theorem add32_wrap32 (x y : Int) : add32 (wrap32 x) (wrap32 y) = wrap32 (x + y) := (BitVec.ofInt_add x y).symm

theorem sub32_wrap32 (x y : Int) : sub32 (wrap32 x) (wrap32 y) = wrap32 (x - y) := by
  rw [sub32, wrap32, wrap32, wrap32, BitVec.sub_eq_add_neg, ← BitVec.ofInt_neg, ← BitVec.ofInt_add, Int.sub_eq_add_neg]

theorem mul32_wrap32 (x y : Int) : mul32 (wrap32 x) (wrap32 y) = wrap32 (x * y) := (BitVec.ofInt_mul x y).symm

theorem wrap32_two_pow (n : Nat) : wrap32 (2 ^ n) = BitVec.twoPow 32 n := by
  have hcast : (2 ^ n : Int) = (2 ^ n : Nat) := by push_cast; rfl
  rw [← BitVec.toNat_inj, hcast, wrap32, BitVec.ofInt_natCast, BitVec.toNat_ofNat, BitVec.toNat_twoPow]

theorem shl32_wrap32 (x : Int) (n : Nat) : shl32 (wrap32 x) n = wrap32 (x * 2 ^ n) := by
  rw [← mul32_wrap32, wrap32_two_pow, mul32, shl32, BitVec.shiftLeft_eq_mul_twoPow]

/-- Settles O2: the rules on wrapped integers, read at the signed and at the unsigned readings. -/
theorem addSubMulAreExactThenWrapped : Obligations.AddSubMulAreExactThenWrapped := by
  intro a b
  have hadd := add32_wrap32 a.toNat b.toNat
  have hsub := sub32_wrap32 a.toNat b.toNat
  have hmul := mul32_wrap32 a.toNat b.toNat
  rw [wrap32_unsignedReading, wrap32_unsignedReading] at hadd hsub hmul
  refine ⟨?_, ?_, ?_, ?_, ?_, ?_⟩
  · rw [← add32_wrap32, wrap32_signedReading, wrap32_signedReading]
  · rw [← sub32_wrap32, wrap32_signedReading, wrap32_signedReading]
  · rw [← mul32_wrap32, wrap32_signedReading, wrap32_signedReading]
  · rw [hadd, wrap32_toNat]
  · rw [hsub, wrap32_toNat]
  · rw [hmul, wrap32_toNat]

/-- Settles O3: the rule for the left shift, read at the signed and at the unsigned reading. -/
theorem leftShiftIsMultiplyThenWrap : Obligations.LeftShiftIsMultiplyThenWrap := by
  intro a n _
  constructor
  · rw [← shl32_wrap32, wrap32_signedReading]
  · have hunsigned : shl32 a n = wrap32 (a.toNat * 2 ^ n) := by
      rw [← shl32_wrap32, wrap32_unsignedReading]
    have htoNat := wrap32_toNat (a.toNat * 2 ^ n)
    rw [← hunsigned] at htoNat
    exact_mod_cast htoNat

/-! ### The arithmetic right shift (R10) -/

/-- Division with remainder by 2^n, the quotient being the shift. -/
theorem toInt_eq_asr32_mul_add_emod (a : Word) (n : Nat) :
    a.toInt = (asr32 a n).toInt * 2 ^ n + a.toInt % 2 ^ n := by
  rw [asr32_toInt, Int.ediv_mul_add_emod]

/-- Truncation is one above the floor for a negative value that is not a multiple. -/
theorem asr32_eq_tdiv_sub_one (a : Word) (n : Nat) (hneg : a.toInt < 0) (hdvd : ¬ (2 ^ n : Int) ∣ a.toInt) :
    (asr32 a n).toInt = a.toInt.tdiv (2 ^ n) - 1 := by
  have hsign : Int.sign (2 ^ n) = 1 := Int.sign_eq_one_of_pos (by positivity)
  rw [asr32_toInt, Int.ediv_eq_tdiv, if_neg (by simp [hdvd, hneg]), hsign]

/-- Settles O4: the shift is the floored quotient, and the remainder lies in 0..2^n-1. -/
theorem arithmeticShiftIsFloor : Obligations.ArithmeticShiftIsFloor := by
  refine ⟨fun a n _ => ⟨?_, asr32_eq_tdiv_sub_one a n⟩, by decide⟩
  have hpos : (0 : Int) < 2 ^ n := by positivity
  exact ⟨a.toInt % 2 ^ n, Int.emod_nonneg _ hpos.ne', Int.emod_lt_of_pos _ hpos,
    toInt_eq_asr32_mul_add_emod a n⟩

end Sys2Proof.Machine
end

section
/-! Proofs of the statements about 10_state.md. The `STATUS` view is cut into its fields (R52). For the
three rules about what a step records (R55 to R58), one lemma says what every step but a reset can leave
in the recorded fields: nothing, or exactly one answer of the host command the step belongs to. -/

namespace Sys2Proof.Machine

/-! ### The `STATUS` view (R52) -/

theorem State.statusWord_ss (s : State) : s.statusWord.extractLsb' 0 3 = s.ss.code := BitVec.extractLsb'_append_eq_right

theorem State.statusWord_flags (s : State) :
    s.statusWord.getLsbD 3 = s.calValid ∧ s.statusWord.getLsbD 4 = s.rdValid ∧ s.statusWord.getLsbD 5 = s.pUnavail ∧
    s.statusWord.getLsbD 6 = s.ioFail ∧ s.statusWord.getLsbD 7 = s.refused := by
  simp only [State.statusWord, BitVec.getLsbD_append]
  simp

theorem State.statusWord_lastStatus (s : State) : s.statusWord.extractLsb' 8 4 = s.lastStatus.code := by
  simp (disch := decide) only [State.statusWord, BitVec.extractLsb'_append_eq_of_le]
  exact BitVec.extractLsb'_append_eq_right

theorem State.statusWord_reserved (s : State) : s.statusWord.extractLsb' 12 20 = 0#20 := by
  simp (disch := decide) only [State.statusWord, BitVec.extractLsb'_append_eq_of_le]
  exact BitVec.extractLsb'_eq_self

/-- Settles O44: the view is the concatenation of its fields, so each field is read back at its place. -/
theorem statusViewLayout : Obligations.StatusViewLayout := by
  refine ⟨rfl, fun s => ?_, rfl⟩
  obtain ⟨hcal, hrd, hpun, hio, href⟩ := s.statusWord_flags
  exact ⟨s.statusWord_ss, hcal, hrd, hpun, hio, href, s.statusWord_lastStatus, s.statusWord_reserved⟩

/-! ### The state after reset (R59) -/

/-- Settles O16: each field has its value in the definition of the reset state, and the empty `CALBUF` is
`none` at every address. -/
theorem resetStateHoldsNothing : Obligations.ResetStateHoldsNothing :=
  ⟨rfl, rfl, rfl, rfl, rfl, rfl, rfl, rfl, fun _ => rfl, rfl, rfl, rfl, rfl, rfl, rfl, rfl, rfl, rfl⟩

/-! ### What a command records (R55 to R58) -/

/-- Two states agree in the fields in which the block records how commands end. -/
structure State.SameRecord (t u : State) : Prop where
  pUnavail : t.pUnavail = u.pUnavail
  ioFail : t.ioFail = u.ioFail
  refused : t.refused = u.refused
  lastStatus : t.lastStatus = u.lastStatus
  responses : t.responses = u.responses

/-- `t` records one answer given in `s`. `who` is the host command that is answered; `none` stands for an
illegal byte. -/
inductive State.Answers (who : Option Instr) (s t : State) : Prop where
  /-- R167: `GETSTAT` answers and records no status. -/
  | view (d : Word) (hwho : who = some .getstat) (h : t.SameRecord { s with responses := .ok d :: s.responses })
  /-- R89: an `OK` ending of a command other than `READCOMP`. -/
  | ok (d : Word) (hstat : who ≠ some .getstat) (hcycle : who ≠ some .readcomp) (h : t.SameRecord (s.succeed d))
  /-- R162: `READCOMP` publishes. -/
  | published (d : Word) (hwho : who = some .readcomp)
      (h : t.SameRecord (({ s with pUnavail := false } : State).succeed d))
  /-- R180: a non-OK ending. -/
  | ended (c : Cause) (hstat : who ≠ some .getstat) (hcycle : c = .unavailable → who = some .readcomp)
      (h : t.SameRecord (s.raise c))

theorem State.SameRecord.trans {t u v : State} (htu : t.SameRecord u) (huv : u.SameRecord v) : t.SameRecord v where
  pUnavail := htu.pUnavail.trans huv.pUnavail
  ioFail := htu.ioFail.trans huv.ioFail
  refused := htu.refused.trans huv.refused
  lastStatus := htu.lastStatus.trans huv.lastStatus
  responses := htu.responses.trans huv.responses

/-- An answer does not depend on the fields that record nothing. -/
theorem State.Answers.of_sameRecord {who : Option Instr} {u s t : State} (hus : u.SameRecord s)
    (h : State.Answers who u t) : State.Answers who s t := by
  obtain ⟨hpun, hio, href, hlast, hresp⟩ := hus
  cases h with
  | view d hwho h => exact .view d hwho (h.trans ⟨hpun, hio, href, hlast, by simp [hresp]⟩)
  | ok d hstat hcycle h => exact .ok d hstat hcycle (h.trans ⟨hpun, hio, href, rfl, by simp [hresp]⟩)
  | published d hwho h => exact .published d hwho (h.trans ⟨rfl, hio, href, rfl, by simp [hresp]⟩)
  | ended c hstat hcycle h =>
    exact .ended c hstat hcycle (h.trans ⟨by simp [hpun], by simp [hio], by simp [href], by simp, by simp [hresp]⟩)

theorem accessor_answers {i : Instr} {r : DataReg} {v : Option Word} {s t : State} (hstat : i ≠ .getstat)
    (hcycle : i ≠ .readcomp) (h : accessor r v s = .next t) : State.Answers (some i) s t := by
  rcases accessor_cases h with ⟨_, d, _, rfl⟩ | ⟨_, rfl⟩
  · exact .ok d (by simpa) (by simpa) ⟨rfl, rfl, rfl, rfl, rfl⟩
  · exact .ended .noReading (by simpa) (by simp) ⟨rfl, rfl, rfl, rfl, rfl⟩

/-- R160: a host command gives exactly one answer. -/
theorem exec_host_answers {i : Instr} {s t : State} (hi : i.isHost = true) (h : exec i s = .next t) :
    State.Answers (some i) s t := by
  cases i <;> simp only [Instr.isHost, Bool.false_eq_true] at hi
  case loadcal =>
    rcases execLoadcal_cases h with ⟨_, rfl⟩ | ⟨_, m, rd, dr, l, _, _, ⟨c, _, _, rfl⟩ | ⟨_, rfl⟩⟩
    · exact .ended .alreadyLoaded (by simp) (by simp) ⟨rfl, rfl, rfl, rfl, rfl⟩
    · exact .ok 0#32 (by simp) (by simp) ⟨rfl, rfl, rfl, rfl, rfl⟩
    · exact .ended .ioFailure (by simp) (by simp) ⟨rfl, rfl, rfl, rfl, rfl⟩
  case readcomp =>
    rcases execReadcomp_cases h with ⟨_, rfl⟩ | ⟨_, ⟨_, rfl⟩ | ⟨b, c, _, _, ⟨_, rfl⟩ | ⟨p, _, rfl⟩⟩⟩
    · exact .ended .notReady (by simp) (by simp) ⟨rfl, rfl, rfl, rfl, rfl⟩
    · exact .ended .ioFailure (by simp) (by simp) ⟨rfl, rfl, rfl, rfl, rfl⟩
    · exact .ended .unavailable (by simp) (by simp) ⟨rfl, rfl, rfl, rfl, rfl⟩
    · exact .published 0#32 rfl ⟨rfl, rfl, rfl, rfl, rfl⟩
  case gett => exact accessor_answers (by simp) (by simp) h
  case getp => exact accessor_answers (by simp) (by simp) h
  case geth => exact accessor_answers (by simp) (by simp) h
  case getstat =>
    cases h
    exact .view _ rfl ⟨rfl, rfl, rfl, rfl, rfl⟩

/-- R88, R91: an operation is a host command or a micro-operation, never both. -/
theorem isUop_eq_not_isHost (i : Instr) : i.isUop = !i.isHost := by cases i <;> rfl

/-- R101 to R163: a micro-operation writes no flag and gives no response. -/
theorem exec_uop_sameRecord {i : Instr} {s t : State} (hi : i.isUop = true) (h : exec i s = .next t) :
    t.SameRecord s := by
  rcases exec_uop_cases hi h with ⟨_, _, _, _, _, _, rfl⟩ | ⟨_, _, _, rfl⟩ | ⟨_, _, _, rfl⟩ | ⟨_, _, _, _, _, rfl⟩ |
    ⟨_, _, _, rfl⟩ | ⟨_, _, _, rfl⟩ | ⟨_, _, rfl⟩ | ⟨_, _, rfl⟩ | ⟨_, _, _, _, _, _, _, rfl⟩
  all_goals exact ⟨rfl, rfl, rfl, rfl, rfl⟩

/-- What the answer of a command other than `GETSTAT` says: its status is recorded with it. -/
theorem State.Answers.recorded {who : Option Instr} {s t : State} (h : State.Answers who s t)
    (hstat : who ≠ some .getstat) :
    (∃ d, t.responses = .ok d :: s.responses ∧ t.lastStatus = .ok) ∨
    (∃ c, t.responses = .ended c :: s.responses ∧ t.lastStatus = .ended c) := by
  cases h with
  | view d hwho h => exact absurd hwho hstat
  | ok d _ _ h => exact .inl ⟨d, h.responses, h.lastStatus⟩
  | published d _ h => exact .inl ⟨d, h.responses, h.lastStatus⟩
  | ended c _ _ h => exact .inr ⟨c, by simp [h.responses], by simp [h.lastStatus]⟩

/-- R58: the answer of `GETSTAT` leaves `LAST_STATUS`. -/
theorem State.Answers.lastStatus_getstat {s t : State} (h : State.Answers (some .getstat) s t) :
    t.lastStatus = s.lastStatus := by
  cases h with
  | view d _ h => exact h.lastStatus
  | ok d hstat _ h => exact absurd rfl hstat
  | published d hwho h => simp at hwho
  | ended c hstat _ h => exact absurd rfl hstat

/-- R55, for a `READCOMP`: what its answer says about `P_UNAVAIL`. -/
theorem State.Answers.pUnavail_readcomp {s t : State} (h : State.Answers (some .readcomp) s t) :
    (∃ d, t.responses = .ok d :: s.responses ∧ t.lastStatus = .ok ∧ t.pUnavail = false) ∨
    (∃ c, t.responses = .ended c :: s.responses ∧ t.lastStatus = .ended c ∧
      (c = .unavailable ∧ t.pUnavail = true ∨ c ≠ .unavailable ∧ t.pUnavail = s.pUnavail)) := by
  cases h with
  | view d hwho h => simp at hwho
  | ok d _ hcycle h => exact absurd rfl hcycle
  | published d _ h => exact .inl ⟨d, h.responses, h.lastStatus, h.pUnavail⟩
  | ended c _ _ h =>
    refine .inr ⟨c, by simp [h.responses], by simp [h.lastStatus], ?_⟩
    by_cases hc : c = .unavailable <;> simp [h.pUnavail, hc]

/-- R55, for everything else. -/
theorem State.Answers.pUnavail_other {who : Option Instr} {s t : State} (h : State.Answers who s t)
    (hcycle : who ≠ some .readcomp) : t.pUnavail = s.pUnavail := by
  cases h with
  | view d _ h => exact h.pUnavail
  | ok d _ _ h => exact h.pUnavail
  | published d hwho h => exact absurd hwho hcycle
  | ended c _ hc h =>
    have hne : c ≠ .unavailable := fun hce => hcycle (hc hce)
    simp [h.pUnavail, hne]

/-! ### The command that a step belongs to -/

/-- The host command that has this microprogram. -/
def SeqCmd.instr : SeqCmd → Instr
  | .loadcal => .loadcal
  | .readcomp => .readcomp

/-- The host command that the next step belongs to, if no reset is at the port: the one in progress, or the
one whose byte is accepted now. -/
def State.stepCommand (s : State) : Option Instr :=
  match s.active, s.port with
  | some a, _ => some a.cmd.instr
  | none, .command b :: _ => decodeHost b
  | none, _ => none

/-- R88: a byte that the port takes is the code of the host command it means. -/
theorem decodeHost_eq_some {b : Byte} {i : Instr} (h : decodeHost b = some i) : b = encode i ∧ i.isHost = true := by
  simp only [decodeHost, hostTable, tableLookup] at h
  split_ifs at h <;> cases h <;> exact ⟨(‹_ = b›).symm, rfl⟩

/-- R92: a micro-operation stands at one place of one microprogram, so it tells the command in progress. -/
theorem uopPlace_of_uopAt {a : Active} {i : Instr} (h : uopAt a = some i) : uopPlace i = some a := by
  obtain ⟨cmd, upc⟩ := a
  cases cmd <;> rcases upc with _ | _ | _ | _ | _ | _ | n <;> simp [uopAt, microprogram] at h <;> subst h <;> rfl

theorem State.stepCommand_of_active {s : State} {a : Active} (ha : s.active = some a) :
    s.stepCommand = some a.cmd.instr := by
  simp [State.stepCommand, ha]

theorem State.stepCommand_of_command {s : State} {b : Byte} {rest : List PortEvent} (ha : s.active = none)
    (hp : s.port = .command b :: rest) : s.stepCommand = decodeHost b := by
  simp [State.stepCommand, ha, hp]

/-- The statements' condition that a step belongs to a `READCOMP`, through its command. -/
theorem State.atCycle_iff {s : State} : s.atCycle ↔ s.stepCommand = some .readcomp := by
  constructor
  · rintro (⟨upc, ha⟩ | ⟨ha, rest, hp⟩)
    · exact State.stepCommand_of_active ha
    · exact State.stepCommand_of_command ha hp
  · intro h
    unfold State.stepCommand at h
    split at h
    case h_1 a ha =>
      obtain ⟨cmd, upc⟩ := a
      cases cmd
      · simp [SeqCmd.instr] at h
      · exact .inl ⟨upc, ha⟩
    case h_2 b rest ha hp =>
      obtain ⟨hb, _⟩ := decodeHost_eq_some h
      exact .inr ⟨ha, rest, by simp [hp, hb, encode]⟩
    case h_3 => simp at h

/-- The statements' condition that a step is a `GETSTAT`, through its command. -/
theorem State.atGetstat_iff {s : State} : s.atGetstat ↔ s.stepCommand = some .getstat := by
  constructor
  · rintro ⟨ha, rest, hp⟩
    exact State.stepCommand_of_command ha hp
  · intro h
    unfold State.stepCommand at h
    split at h
    case h_1 a ha => cases hc : a.cmd <;> simp [hc, SeqCmd.instr] at h
    case h_2 b rest ha hp =>
      obtain ⟨hb, _⟩ := decodeHost_eq_some h
      exact ⟨ha, rest, by simp [hp, hb, encode]⟩
    case h_3 => simp at h

/-- What the sequencer records after a micro-operation: nothing, or the end of its command. -/
theorem sequencer_records {a : Active} {i : Instr} {s t : State} (hi : uopAt a = some i)
    (h : sequencer i s = .next t) : t.SameRecord s ∨ State.Answers (some a.cmd.instr) s t := by
  have hstat : some a.cmd.instr ≠ some .getstat := by cases a.cmd <;> simp [SeqCmd.instr]
  have hplace := uopPlace_of_uopAt hi
  rcases sequencer_cases h with ⟨rfl, _⟩ | ⟨rfl, _⟩ | ⟨rfl, rfl⟩ | ⟨rfl, rfl⟩ | ⟨rfl, _⟩ | ⟨rfl, _⟩ | ⟨rfl, rfl, _⟩
  · exact .inl ⟨rfl, rfl, rfl, rfl, rfl⟩
  · exact .inl ⟨rfl, rfl, rfl, rfl, rfl⟩
  · cases hplace
    exact .inr (.ok 0#32 hstat (by simp [SeqCmd.instr]) ⟨rfl, rfl, rfl, rfl, rfl⟩)
  · cases hplace
    exact .inr (.published 0#32 rfl ⟨rfl, rfl, rfl, rfl, rfl⟩)
  · exact .inr (.ended .ioFailure hstat (by simp) ⟨rfl, rfl, rfl, rfl, rfl⟩)
  · exact .inr (.ended .ioFailure hstat (by simp) ⟨rfl, rfl, rfl, rfl, rfl⟩)
  · cases hplace
    exact .inr (.ended .unavailable hstat (fun _ => rfl) ⟨rfl, rfl, rfl, rfl, rfl⟩)

/-- What a step that is no reset records: nothing, or one answer of the command it belongs to. -/
theorem step_records {s t : State} (h : step s = .next t) (hreset : ∀ rest, s.port ≠ .reset :: rest) :
    t.SameRecord s ∨ State.Answers s.stepCommand s t := by
  rcases step_cases h with ⟨rest, hp, _⟩ | ⟨a, i, ha, hi, h⟩ | ⟨b, rest, i, ha, hp, hd, h⟩ |
    ⟨b, rest, ha, hp, hd, rfl⟩ | ⟨_, _, rfl⟩
  · exact absurd hp (hreset rest)
  · obtain ⟨u, hu, ht⟩ := andThen_eq_next h
    have hus := exec_uop_sameRecord (uopAt_isUop hi) hu
    rw [State.stepCommand_of_active ha]
    exact (sequencer_records hi ht).imp (·.trans hus) (.of_sameRecord hus)
  · rw [State.stepCommand_of_command ha hp, hd]
    obtain ⟨_, hhost⟩ := decodeHost_eq_some hd
    have hport : ({ s with port := rest } : State).SameRecord s := ⟨rfl, rfl, rfl, rfl, rfl⟩
    exact .inr (.of_sameRecord hport (exec_host_answers hhost h))
  · rw [State.stepCommand_of_command ha hp, hd]
    exact .inr (.ended .illegalCmd (by simp) (by simp) ⟨rfl, rfl, rfl, rfl, rfl⟩)
  · exact .inl ⟨rfl, rfl, rfl, rfl, rfl⟩

/-! ### The rules about what a step records -/

/-- R55, for a `READCOMP` run as one. -/
theorem exec_readcomp_pUnavail {s t : State} (h : exec .readcomp s = .next t) :
    (t.lastStatus = .ended .unavailable → t.pUnavail = true) ∧ (t.lastStatus = .ok → t.pUnavail = false) ∧
    (t.lastStatus ≠ .ended .unavailable → t.lastStatus ≠ .ok → t.pUnavail = s.pUnavail) := by
  rcases (exec_host_answers rfl h).pUnavail_readcomp with
    ⟨d, _, hlast, hp⟩ | ⟨c, _, hlast, ⟨rfl, hp⟩ | ⟨hc, hp⟩⟩
  · simp [hlast, hp]
  · simp [hlast, hp]
  · simp [hlast, hp, hc]

/-- R55, for every other operation: neither the other commands nor a micro-operation touch `P_UNAVAIL`. -/
theorem exec_other_pUnavail {i : Instr} {s t : State} (h : exec i s = .next t) (hi : i ≠ .readcomp) :
    t.pUnavail = s.pUnavail := by
  cases hhost : i.isHost with
  | true => exact (exec_host_answers hhost h).pUnavail_other (by simpa using hi)
  | false => exact (exec_uop_sameRecord (by simp [isUop_eq_not_isHost, hhost]) h).pUnavail

/-- R55, for a step that is no reset. -/
theorem step_pUnavail {s t : State} (h : step s = .next t) (hreset : ∀ rest, s.port ≠ .reset :: rest) :
    (s.atCycle → t.responses = .ended .unavailable :: s.responses → t.pUnavail = true) ∧
    (s.atCycle → ∀ d, t.responses = .ok d :: s.responses → t.pUnavail = false) ∧
    (t.responses ≠ .ended .unavailable :: s.responses → (∀ d, t.responses ≠ .ok d :: s.responses) →
      t.pUnavail = s.pUnavail) ∧
    (¬ s.atCycle → t.pUnavail = s.pUnavail) := by
  rw [State.atCycle_iff]
  rcases step_records h hreset with hsame | hans
  · simp [hsame.responses, hsame.pUnavail]
  by_cases hcycle : s.stepCommand = some .readcomp
  · rw [hcycle] at hans
    rcases hans.pUnavail_readcomp with ⟨d, hresp, _, hp⟩ | ⟨c, hresp, _, ⟨rfl, hp⟩ | ⟨hc, hp⟩⟩
    · simp [hcycle, hresp, hp]
    · simp [hcycle, hresp, hp]
    · simp [hcycle, hresp, hp, hc]
  · simp [hcycle, hans.pUnavail_other hcycle]

/-- Settles O49: `P_UNAVAIL` follows the answer of a `READCOMP`, and no other answer touches it. -/
theorem pUnavailFollowsTheLastCycle : Obligations.PUnavailFollowsTheLastCycle := by
  refine ⟨rfl, fun i s t h => ?_, fun s t => step_pUnavail⟩
  have hillegal : (illegalCommand s).pUnavail = s.pUnavail := by simp [illegalCommand]
  by_cases hi : i = .readcomp
  · subst hi
    obtain ⟨hset, hclear, hkeep⟩ := exec_readcomp_pUnavail h
    exact ⟨fun _ => hset, fun _ => hclear, fun _ => hkeep, fun hne => absurd rfl hne, hillegal⟩
  · simp [hi, hillegal, exec_other_pUnavail h hi]

/-- Settles O50: a step other than a reset changes the two flags only by a non-OK answer, which sets them. -/
theorem stickyFlagsStay : Obligations.StickyFlagsStay := by
  refine ⟨⟨rfl, rfl⟩, fun s t h hreset => ?_⟩
  rcases step_records h hreset with ⟨_, hio, href, _, hresp⟩ | hans
  · simp [hio, href, hresp]
  cases hans with
  | view d _ h => simp [h.ioFail, h.refused, h.responses]
  | ok d _ _ h => simp [h.ioFail, h.refused, h.responses]
  | published d _ h => simp [h.ioFail, h.refused, h.responses]
  | ended c _ _ h => cases c <;> simp [h.ioFail, h.refused, h.responses]

/-- Settles O51: every answer but that of `GETSTAT` is recorded, and a step gives at most one. -/
theorem lastStatusIsTheLastResponse : Obligations.LastStatusIsTheLastResponse := by
  refine ⟨rfl, rfl, fun s t h => (exec_host_answers rfl h).lastStatus_getstat,
    fun s => ⟨by simp [illegalCommand], by simp [illegalCommand]⟩, ?_, fun s t h hreset => ?_⟩
  · intro i s t hi hstat h
    exact (exec_host_answers hi h).recorded (by simpa using hstat)
  · rw [State.atGetstat_iff]
    rcases step_records h hreset with hsame | hans
    · exact ⟨fun _ => hsame.lastStatus, fun _ => .inl ⟨hsame.responses, hsame.lastStatus⟩⟩
    · exact ⟨fun hstat => (hstat ▸ hans).lastStatus_getstat, fun hstat => .inr (hans.recorded hstat)⟩

end Sys2Proof.Machine
end

section
/-! Proofs of the statements about 30_encoding.md. A byte decodes exactly if it stands in the table, to an
operation of its row; so a statement about every byte that decodes is a check of the table's rows. -/

namespace Sys2Proof.Machine

/-! ### The decode tables (R88, R91) -/

theorem tableLookup_eq_none_iff {table : List (Byte × Instr)} {b : Byte} :
    tableLookup table b = none ↔ b ∉ table.map Prod.fst := by
  induction table with
  | nil => simp [tableLookup]
  | cons row rest ih =>
    obtain ⟨c, i⟩ := row
    by_cases hc : c = b
    · simp [tableLookup, hc]
    · simp [tableLookup, hc, ih, Ne.symm hc]

theorem mem_of_tableLookup_eq_some {table : List (Byte × Instr)} {b : Byte} {i : Instr}
    (h : tableLookup table b = some i) : (b, i) ∈ table := by
  induction table with
  | nil => simp [tableLookup] at h
  | cons row rest ih =>
    obtain ⟨c, j⟩ := row
    by_cases hc : c = b
    · obtain rfl : j = i := by simpa [tableLookup, hc] using h
      simp [hc]
    · exact List.mem_cons_of_mem _ (ih (by simpa [tableLookup, hc] using h))

/-- R91: a code that decodes inside the sequencer is one of the table. -/
theorem decodeUop_isSome_iff {b : Byte} : (decodeUop b).isSome = true ↔ b ∈ uopTable.map Prod.fst := by
  rw [Option.isSome_iff_ne_none, Ne, decodeUop, tableLookup_eq_none_iff, not_not]

/-- R90: the six command bytes are those below 0x08 but 0x00 and 0x03. -/
theorem notMem_hostCodes_iff {b : Byte} :
    b ∉ hostTable.map Prod.fst ↔ b = 0x00#8 ∨ b = 0x03#8 ∨ 0x08#8 ≤ b := by
  simp only [hostTable, List.map_cons, List.map_nil, List.mem_cons, List.not_mem_nil, or_false, BitVec.le_def, ← BitVec.toNat_inj,
    BitVec.toNat_ofNat]
  omega

/-- R90, R91: what the row of a micro-operation says, its unit in bits 7:4. -/
theorem uopTable_rows : ∀ row ∈ uopTable, decodeHost row.1 = none ∧ row.2.isUop = true ∧
    (row.1 >>> 4 = 1#8 ↔ row.2 = .calfetch ∨ row.2 = .caldec ∨ row.2 = .calcommit) ∧
    (row.1 >>> 4 = 2#8 ↔ row.2 = .burstrd ∨ row.2 = .rawdec) ∧
    (row.1 >>> 4 = 3#8 ↔ row.2 = .compt ∨ row.2 = .compp ∨ row.2 = .comph ∨ row.2 = .publish) := by
  decide

/-- Settles O6: the six bytes select their rows, and a byte outside the table is 0x00, 0x03 or at least 0x08. -/
theorem commandBytesDecode : Obligations.CommandBytesDecode :=
  ⟨⟨rfl, rfl, rfl, rfl, rfl, rfl⟩, fun _ => tableLookup_eq_none_iff.trans notMem_hostCodes_iff⟩

/-- Settles O7: the nine codes select their rows, and each row has its unit and no command byte. -/
theorem microOperationCodesDecode : Obligations.MicroOperationCodesDecode :=
  ⟨⟨rfl, rfl, rfl, rfl, rfl, rfl, rfl, rfl, rfl⟩, fun _ => decodeUop_isSome_iff,
    fun b i h => uopTable_rows (b, i) (mem_of_tableLookup_eq_some h)⟩

/-! ### The pseudo-instructions (R95) -/

/-- Settles O10: by the three forms of a line. -/
theorem pseudoInstructionsExpand : Obligations.PseudoInstructionsExpand := by
  refine ⟨rfl, rfl, fun l => ?_⟩
  cases l with
  | cmd i => exact .inr (.inr ⟨i, rfl, rfl⟩)
  | cycle => exact .inl rfl
  | init => exact .inr (.inl rfl)

end Sys2Proof.Machine
end

section
/-! Proofs of the statements about 40_calibration.md, R102 to R109. The idea: a decoded word is an extended
byte or pair of bytes or, for `H4` and `H5`, at most 4095; so its register, which keeps the low bits, loses
nothing, and the normalised read (R23) gives the word back. -/

namespace Sys2Proof.Machine

/-! ### The decode functions as integers (R103 to R108) -/

theorem toNat_append_byte (hi lo : Byte) : (hi ++ lo).toNat = hi.toNat * 256 + lo.toNat := by
  rw [BitVec.toNat_append, ← Nat.shiftLeft_add_eq_or_of_lt lo.isLt, Nat.shiftLeft_eq]

theorem zext32_toNat {n : Nat} (hn : n ≤ 32) (v : BitVec n) : (zext32 n v).toNat = v.toNat :=
  BitVec.toNat_setWidth_of_le hn

theorem decU16LE_toNat (lo hi : Byte) : (decU16LE lo hi).toNat = hi.toNat * 256 + lo.toNat := by
  rw [decU16LE, zext32_toNat (by decide), toNat_append_byte]

theorem decS16LE_toInt (lo hi : Byte) : (decS16LE lo hi).toInt =
    if hi.toNat * 256 + lo.toNat < 32768 then (hi.toNat * 256 + lo.toNat : Int)
    else (hi.toNat * 256 + lo.toNat : Int) - 65536 := by
  rw [decS16LE, sext32_toInt (by decide), BitVec.toInt_eq_toNat_cond, toNat_append_byte]
  push_cast
  split <;> split <;> omega

theorem decU8_toNat (b : Byte) : (decU8 b).toNat = b.toNat := zext32_toNat (by decide) b

theorem decS8_toInt (b : Byte) :
    (decS8 b).toInt = if b.toNat < 128 then (b.toNat : Int) else (b.toNat : Int) - 256 := by
  rw [decS8, sext32_toInt (by decide), BitVec.toInt_eq_toNat_cond]
  split <;> split <;> omega

/-- The high part of `H4` and of `H5`: a byte moved up by one nibble. -/
theorem zext32_byte_shiftLeft_toNat (a : Byte) : (zext32 8 a <<< 4).toNat = a.toNat * 16 := by
  rw [BitVec.toNat_shiftLeft, zext32_toNat (by decide), Nat.shiftLeft_eq]
  omega

theorem decH4_toNat (a b : Byte) : (decH4 a b).toNat = a.toNat * 16 + b.toNat % 16 := by
  have hmod : (zext32 8 b % 16#32).toNat = b.toNat % 16 := by
    rw [BitVec.toNat_umod, zext32_toNat (by decide)]
    rfl
  rw [decH4, BitVec.toNat_add, zext32_byte_shiftLeft_toNat, hmod]
  omega

theorem decH5_toNat (c b : Byte) : (decH5 c b).toNat = c.toNat * 16 + b.toNat / 16 := by
  rw [decH5, BitVec.toNat_add, zext32_byte_shiftLeft_toNat, BitVec.toNat_ushiftRight, zext32_toNat (by decide),
    Nat.shiftRight_eq_div_pow]
  omega

/-- Settles O23: one lemma for each decode function; the worked examples evaluate. -/
theorem decodeFunctionsCompute : Obligations.DecodeFunctionsCompute :=
  ⟨decU16LE_toNat, decS16LE_toInt, decU8_toNat, decS8_toInt, decH4_toNat, decH5_toNat, by decide⟩

/-! ### The decode table read back (R23, R109) -/

/-- The low bits of a zero-extended value are the value. -/
theorem setWidth_zext32 {n : Nat} (hn : n ≤ 32) (v : BitVec n) : (zext32 n v).setWidth n = v := by
  rw [zext32, BitVec.setWidth_setWidth_of_le v hn, BitVec.setWidth_eq]

/-- The low bits of a sign-extended value are the value. -/
theorem setWidth_sext32 {n : Nat} (hn : n ≤ 32) (v : BitVec n) : (sext32 n v).setWidth n = v := by
  ext i hi
  rw [BitVec.getElem_setWidth, sext32, BitVec.getLsbD_signExtend, decide_eq_true (by omega), if_pos hi, Bool.true_and,
    BitVec.getLsbD_eq_getElem hi]

theorem decU16LE_readBack (lo hi : Byte) : zext32 16 ((decU16LE lo hi).setWidth 16) = decU16LE lo hi :=
  congrArg _ (setWidth_zext32 (by decide) _)

theorem decS16LE_readBack (lo hi : Byte) : sext32 16 ((decS16LE lo hi).setWidth 16) = decS16LE lo hi :=
  congrArg _ (setWidth_sext32 (by decide) _)

theorem decU8_readBack (b : Byte) : zext32 8 ((decU8 b).setWidth 8) = decU8 b :=
  congrArg _ (setWidth_zext32 (by decide) _)

theorem decS8_readBack (b : Byte) : sext32 8 ((decS8 b).setWidth 8) = decS8 b :=
  congrArg _ (setWidth_sext32 (by decide) _)

/-- A word that fits in the register is read back by zero extension. -/
theorem zext32_setWidth_of_lt {n : Nat} {w : Word} (h : w.toNat < 2 ^ n) : zext32 n (w.setWidth n) = w :=
  BitVec.eq_of_toNat_eq (by
    rw [zext32, BitVec.toNat_setWidth, BitVec.toNat_setWidth, Nat.mod_eq_of_lt h, Nat.mod_eq_of_lt w.isLt])

theorem decH4_readBack (a b : Byte) : zext32 16 ((decH4 a b).setWidth 16) = decH4 a b :=
  zext32_setWidth_of_lt (by rw [decH4_toNat]; omega)

theorem decH5_readBack (c b : Byte) : zext32 16 ((decH5 c b).setWidth 16) = decH5 c b :=
  zext32_setWidth_of_lt (by rw [decH5_toNat]; omega)

/-- R102: with the 32 bytes in the buffer, `CALDEC` stages the decode of the image. -/
theorem exec_caldec_of_complete {s : State} (h : Memory.complete s.calbuf = true) :
    exec .caldec s = .next { s with stg := some (decodeImage (Memory.image s.calbuf)) } := by
  have hdec : calDec s.calbuf = some (decodeImage (Memory.image s.calbuf)) := calDec_eq_some.mpr ⟨h, rfl⟩
  rw [exec_eq_uopMeaning rfl, uopMeaning, execCaldec, hdec, readReg_some]

/-- Settles O24: the staged file by `calDec_eq_some`, and each row by the read-back of its decode function. -/
theorem caldecStagesTheDecodeTable : Obligations.CaldecStagesTheDecodeTable :=
  ⟨fun _ => exec_caldec_of_complete, fun _ =>
    ⟨decU16LE_readBack _ _, decS16LE_readBack _ _, decS16LE_readBack _ _, decU16LE_readBack _ _,
      decS16LE_readBack _ _, decS16LE_readBack _ _, decS16LE_readBack _ _, decS16LE_readBack _ _,
      decS16LE_readBack _ _, decS16LE_readBack _ _, decS16LE_readBack _ _, decS16LE_readBack _ _,
      decU8_readBack _, decS16LE_readBack _ _, decU8_readBack _, decH4_readBack _ _, decH5_readBack _ _,
      decS8_readBack _⟩⟩

end Sys2Proof.Machine
end

section
/-! Proofs of the statement about 41_raw_sample.md, R121. The idea: a shifted byte keeps all its bits in the
raw register, and the fields joined by `|||` do not overlap; so each `|||` is an addition. -/

namespace Sys2Proof.Machine

/-- A byte moved up inside a register that has room for it loses no bit. -/
theorem toNat_setWidth_byte_shiftLeft {n k : Nat} (hn : 8 + k ≤ n) (b : Byte) :
    (b.setWidth n <<< k).toNat = b.toNat <<< k := by
  have hlt : b.toNat <<< k < 2 ^ n := calc
    b.toNat <<< k = b.toNat * 2 ^ k := Nat.shiftLeft_eq ..
    _ < 2 ^ 8 * 2 ^ k := Nat.mul_lt_mul_of_pos_right b.isLt (Nat.two_pow_pos k)
    _ = 2 ^ (8 + k) := (Nat.pow_add 2 8 k).symm
    _ ≤ 2 ^ n := Nat.pow_le_pow_right (by decide) hn
  rw [BitVec.toNat_shiftLeft, BitVec.toNat_setWidth_of_le (by omega), Nat.mod_eq_of_lt hlt]

/-- R86, R121: the 20 bits are two whole bytes and the high nibble of the third. -/
theorem raw20_toNat (hi mid lo : Byte) :
    (raw20 hi mid lo).toNat = hi.toNat * 4096 + mid.toNat * 16 + lo.toNat / 16 := by
  have hlo : (lo.setWidth 20 >>> 4).toNat = lo.toNat / 16 := by
    rw [BitVec.toNat_ushiftRight, BitVec.toNat_setWidth_of_le (by decide), Nat.shiftRight_eq_div_pow]
  have hlow : mid.toNat <<< 4 ||| lo.toNat / 16 = mid.toNat * 16 + lo.toNat / 16 := by
    rw [← Nat.shiftLeft_add_eq_or_of_lt (by omega), Nat.shiftLeft_eq]
  rw [raw20, BitVec.or_assoc, BitVec.toNat_or, BitVec.toNat_or, toNat_setWidth_byte_shiftLeft (by decide),
    toNat_setWidth_byte_shiftLeft (by decide), hlo, hlow, ← Nat.shiftLeft_add_eq_or_of_lt (by omega),
    Nat.shiftLeft_eq, Nat.add_assoc]

/-- R86, R121: the 16 bits are the two bytes. -/
theorem raw16_toNat (hi lo : Byte) : (raw16 hi lo).toNat = hi.toNat * 256 + lo.toNat := by
  rw [raw16, BitVec.toNat_or, toNat_setWidth_byte_shiftLeft (by decide), BitVec.toNat_setWidth_of_le (by decide),
    ← Nat.shiftLeft_add_eq_or_of_lt lo.isLt, Nat.shiftLeft_eq]

/-- R121: with a burst held, `RAWDEC` writes its three raw values. -/
theorem exec_rawdec_of_burst {s : State} {b : Burst} (h : s.burst = some b) :
    exec .rawdec s = .next { s with rawP := some (burstP b), rawT := some (burstT b), rawH := some (burstH b) } := by
  rw [exec_eq_uopMeaning rfl, uopMeaning, execRawdec, h, readReg_some, burstP, burstT, burstH]

/-- Settles O29: the next state by `exec_rawdec_of_burst`, and each raw value by the lemma of its width. -/
theorem rawdecDecodesTheBurst : Obligations.RawdecDecodesTheBurst := fun _ b h =>
  ⟨burstP b, burstT b, burstH b, exec_rawdec_of_burst h, raw20_toNat b.b0 b.b1 b.b2, raw20_toNat b.b3 b.b4 b.b5,
    raw16_toNat b.b6 b.b7⟩

end Sys2Proof.Machine
end

section
/-! Proofs of the statement about 42_temperature.md, R130. The idea: the signed reading of each word
operation is the rule's operation on the signed readings, `Ref.wrap` or `Ref.sar`; so reading the words of
`COMPT` as signed, line by line, gives the lines of `Ref.temp`. -/

namespace Sys2Proof.Machine

/-! ### The signed reading of each operation, in the rule's terms (R7 to R10) -/

/-- R7: the balanced remainder by 2^32 is the `s32` value the rule names. -/
theorem bmod_eq_wrap (z : Int) : z.bmod (2 ^ 32) = Ref.wrap z := by
  rw [Ref.wrap, Int.bmod_eq_emod]
  split <;> omega

theorem wrap32_toInt (z : Int) : (wrap32 z).toInt = Ref.wrap z := by
  rw [wrap32, BitVec.toInt_ofInt, bmod_eq_wrap]

theorem add32_toInt_eq_wrap (a b : Word) : (add32 a b).toInt = Ref.wrap (a.toInt + b.toInt) := by
  rw [add32_toInt, bmod_eq_wrap]

theorem sub32_toInt_eq_wrap (a b : Word) : (sub32 a b).toInt = Ref.wrap (a.toInt - b.toInt) := by
  rw [sub32_toInt, bmod_eq_wrap]

theorem mul32_toInt_eq_wrap (a b : Word) : (mul32 a b).toInt = Ref.wrap (a.toInt * b.toInt) := by
  rw [mul32_toInt, bmod_eq_wrap]

theorem shl32_toInt_eq_wrap (a : Word) (n : Nat) : (shl32 a n).toInt = Ref.wrap (a.toInt * 2 ^ n) := by
  rw [← wrap32_toInt, ← shl32_wrap32, wrap32_signedReading]

theorem asr32_toInt_eq_sar (a : Word) (n : Nat) : (asr32 a n).toInt = Ref.sar a.toInt n := asr32_toInt a n

/-! ### `COMPT` (R130) -/

theorem tempFine_toInt (adcT t1 t2 t3 : Word) :
    (tempFine adcT t1 t2 t3).toInt = (Ref.temp adcT.toInt t1.toInt t2.toInt t3.toInt).2 := by
  simp only [tempFine, Ref.temp, add32_toInt_eq_wrap, sub32_toInt_eq_wrap, mul32_toInt_eq_wrap, shl32_toInt_eq_wrap,
    asr32_toInt_eq_sar]

/-- R130, the last line. -/
theorem tempCentiOf_toInt (tFine : Word) :
    (tempCentiOf tFine).toInt = Ref.sar (Ref.wrap (Ref.wrap (tFine.toInt * 5) + 128)) 8 := by
  rw [tempCentiOf, asr32_toInt_eq_sar, add32_toInt_eq_wrap, mul32_toInt_eq_wrap]
  rfl

/-- R130, on any four words. -/
theorem compT_toInt (adcT t1 t2 t3 : Word) :
    ((compT adcT t1 t2 t3).1.toInt, (compT adcT t1 t2 t3).2.toInt) =
      Ref.temp adcT.toInt t1.toInt t2.toInt t3.toInt := by
  rw [compT, tempCentiOf_toInt, tempFine_toInt, Ref.temp]

/-- R130: with the raw value and the coefficients held, `COMPT` writes `T_FINE` and hands on `temp_centi`. -/
theorem exec_compt_of_operands {s : State} {raw : BitVec 20} {c : Coeffs} (hraw : s.rawT = some raw)
    (hc : s.coeffs = some c) :
    exec .compt s = .next { s with
      tFine := some (compT (zext32 20 raw) (c.get .t1) (c.get .t2) (c.get .t3)).2
      tc := some (compT (zext32 20 raw) (c.get .t1) (c.get .t2) (c.get .t3)).1 } := by
  rw [exec_eq_uopMeaning rfl, uopMeaning, execCompt, hraw, readReg_some, hc, readReg_some]

/-- Settles O30: the next state by `exec_compt_of_operands`, its two words by `compT_toInt` at the normalised
reads of the operands (R23). -/
theorem comptFollowsTheIntegerFormula : Obligations.ComptFollowsTheIntegerFormula := by
  intro s raw c hraw hc
  have hadc : (zext32 20 raw).toInt = raw.toNat := zext32_toInt (by decide) raw
  have ht1 : (c.get .t1).toInt = c.t1.toNat := zext32_toInt (by decide) c.t1
  have ht2 : (c.get .t2).toInt = c.t2.toInt := sext32_toInt (by decide) c.t2
  have ht3 : (c.get .t3).toInt = c.t3.toInt := sext32_toInt (by decide) c.t3
  exact ⟨_, _, exec_compt_of_operands hraw hc, by rw [compT_toInt, hadc, ht1, ht2, ht3]⟩

end Sys2Proof.Machine
end

section
/-! Proofs of the statement about 43_pressure.md, R140. The idea: up to the denominator every line is signed
and is read as in R130; from `p0_u` on the words have an unsigned reading, which is the rule's operation on
the unsigned readings, and `as_s32` and `as_u32` are `Ref.wrap` and `Ref.uwrap` of the other reading. -/

namespace Sys2Proof.Machine

/-! ### The unsigned reading of each operation, in the rule's terms (R8, R9, R11) -/

/-- R7: `as_u32`. -/
theorem toNat_eq_uwrap_toInt (w : Word) : (w.toNat : Int) = Ref.uwrap w.toInt := unsignedReading_eq_emod w

/-- R7: `as_s32`. -/
theorem toInt_eq_wrap_toNat (w : Word) : w.toInt = Ref.wrap w.toNat := by
  rw [← wrap32_toInt, wrap32_unsignedReading]

theorem sub32_toNat_eq_uwrap (a b : Word) : ((sub32 a b).toNat : Int) = Ref.uwrap (a.toNat - b.toNat) := by
  obtain ⟨-, -, -, -, hsub, -⟩ := addSubMulAreExactThenWrapped a b
  exact hsub

theorem mul32_toNat_eq_uwrap (a b : Word) : ((mul32 a b).toNat : Int) = Ref.uwrap (a.toNat * b.toNat) := by
  obtain ⟨-, -, -, -, -, hmul⟩ := addSubMulAreExactThenWrapped a b
  exact hmul

theorem shl32_toNat_eq_uwrap (a : Word) (n : Nat) : ((shl32 a n).toNat : Int) = Ref.uwrap (a.toNat * 2 ^ n) := by
  rw [Ref.uwrap, ← wrap32_toNat, ← shl32_wrap32, wrap32_unsignedReading]

theorem lsr32_toNat_eq_sar (u : Word) (n : Nat) : ((lsr32 u n).toNat : Int) = Ref.sar u.toNat n := by
  rw [lsr32_toNat, Nat.shiftRight_eq_div_pow, Ref.sar]
  push_cast
  rfl

/-! ### The signed lines of `COMPP`: `v2` and the denominator (R140) -/

theorem pressV2_toInt (tFine p4 p5 p6 : Word) :
    (pressV2 tFine p4 p5 p6).toInt = Ref.v2 tFine.toInt p4.toInt p5.toInt p6.toInt := by
  simp only [pressV2, pressQQ, pressV1, Ref.v2, add32_toInt_eq_wrap, sub32_toInt_eq_wrap, mul32_toInt_eq_wrap,
    shl32_toInt_eq_wrap, asr32_toInt_eq_sar]
  rfl

theorem pressV1b_toInt (tFine p2 p3 : Word) :
    (pressV1b tFine p2 p3).toInt = Ref.v1b tFine.toInt p2.toInt p3.toInt := by
  simp only [pressV1b, pressQQ, pressV1, Ref.v1b, add32_toInt_eq_wrap, sub32_toInt_eq_wrap, mul32_toInt_eq_wrap,
    asr32_toInt_eq_sar]
  rfl

theorem pressDen_toInt (tFine p1 p2 p3 : Word) :
    (pressDen tFine p1 p2 p3).toInt = Ref.den tFine.toInt p1.toInt p2.toInt p3.toInt := by
  rw [pressDen, pressDenOf, asr32_toInt_eq_sar, mul32_toInt_eq_wrap, add32_toInt_eq_wrap, pressV1b_toInt]
  rfl

/-! ### The unsigned lines of `COMPP`: the rescale and the corrections (R140, R142) -/

theorem pressP0_toNat (adcP v2 : Word) :
    ((pressP0 adcP v2).toNat : Int) =
      Ref.uwrap (Ref.uwrap (Ref.uwrap (1048576 - adcP.toNat) - Ref.uwrap (Ref.sar v2.toInt 12)) * 3125) := by
  rw [pressP0, mul32_toNat_eq_uwrap, sub32_toNat_eq_uwrap, sub32_toNat_eq_uwrap, toNat_eq_uwrap_toInt (asr32 v2 12),
    asr32_toInt_eq_sar]
  rfl

/-- R142: the two branches. -/
theorem pressRescale_toNat (p0 den : Word) :
    ((pressRescale p0 den).toNat : Int) =
      if (p0.toNat : Int) < 2147483648 then Ref.uwrap (p0.toNat * 2 ^ 1) / den.toNat
      else Ref.uwrap (p0.toNat / den.toNat * 2) := by
  have hbranch : ltu32 p0 0x80000000#32 = true ↔ (p0.toNat : Int) < 2147483648 := by
    rw [ltu32_iff, ← Int.ofNat_lt]
    rfl
  rw [pressRescale]
  by_cases hlow : (p0.toNat : Int) < 2147483648
  · rw [if_pos (hbranch.mpr hlow), if_pos hlow, udiv32_toNat, Int.natCast_ediv, shl32_toNat_eq_uwrap]
  · rw [if_neg (mt hbranch.mp hlow), if_neg hlow, mul32_toNat_eq_uwrap, udiv32_toNat, Int.natCast_ediv]
    rfl

/-- R140, `s_u` to `press_pa`: the unsigned words enter the signed lines through `as_s32`. -/
theorem pressCorrect_toNat (p1u p7 p8 p9 : Word) :
    ((pressCorrect p1u p7 p8 p9).toNat : Int) =
      let s := Ref.sar p1u.toNat 3
      let sq := Ref.sar (Ref.uwrap (s * s)) 13
      let c1 := Ref.sar (Ref.wrap (p9.toInt * Ref.wrap sq)) 12
      let c2 := Ref.sar (Ref.wrap (Ref.wrap (Ref.sar p1u.toNat 2) * p8.toInt)) 13
      let corr := Ref.sar (Ref.wrap (Ref.wrap (c1 + c2) + p7.toInt)) 4
      Ref.uwrap (Ref.wrap (Ref.wrap p1u.toNat + corr)) := by
  simp only [pressCorrect, toNat_eq_uwrap_toInt (add32 _ _), add32_toInt_eq_wrap, asr32_toInt_eq_sar,
    mul32_toInt_eq_wrap, toInt_eq_wrap_toNat p1u, toInt_eq_wrap_toNat (lsr32 _ _), lsr32_toNat_eq_sar,
    mul32_toNat_eq_uwrap]

/-! ### `COMPP` (R140) -/

/-- The result of `COMPP` as the reference writes it: a `u32` value, or nothing where `Unavailable`. -/
def Pressure.reading : Pressure → Option Int
  | .pascals p => some p.toNat
  | .unavailable => none

/-- R140, on any eleven words. -/
theorem compP_reading (adcP tFine p1 p2 p3 p4 p5 p6 p7 p8 p9 : Word) :
    (compP adcP tFine p1 p2 p3 p4 p5 p6 p7 p8 p9).reading =
      Ref.press adcP.toNat tFine.toInt p1.toInt p2.toInt p3.toInt p4.toInt p5.toInt p6.toInt p7.toInt p8.toInt
        p9.toInt := by
  have hzero : pressDen tFine p1 p2 p3 = 0#32 ↔ Ref.den tFine.toInt p1.toInt p2.toInt p3.toInt = 0 := by
    rw [← pressDen_toInt, ← BitVec.toInt_inj, BitVec.toInt_zero]
  rw [compP, Ref.press]
  by_cases hden : pressDen tFine p1 p2 p3 = 0#32
  · rw [if_pos hden, if_pos (hzero.mp hden), Pressure.reading]
  · rw [if_neg hden, if_neg (mt hzero.mpr hden), Pressure.reading, pressCorrect_toNat, pressRescale_toNat,
      pressP0_toNat, pressV2_toInt, toNat_eq_uwrap_toInt (pressDen tFine p1 p2 p3), pressDen_toInt]

/-- R140 with the normalised reads of the operands (R23). -/
theorem compPOf_reading (raw : BitVec 20) (tFine : Word) (c : Coeffs) :
    (compPOf raw tFine c).reading =
      Ref.press raw.toNat tFine.toInt c.p1.toNat c.p2.toInt c.p3.toInt c.p4.toInt c.p5.toInt c.p6.toInt
        c.p7.toInt c.p8.toInt c.p9.toInt := by
  have hsigned : ∀ v : BitVec 16, (sext32 16 v).toInt = v.toInt := sext32_toInt (by decide)
  simp only [compPOf, compP_reading, Coeffs.get, zext32_toNat (by decide : 20 ≤ 32), zext32_toInt (by decide : 16 < 32),
    hsigned]

/-- R140: with its three operands held, `COMPP` hands its result on. -/
theorem exec_compp_of_operands {s : State} {raw : BitVec 20} {tf : Word} {c : Coeffs} (hraw : s.rawP = some raw)
    (htf : s.tFine = some tf) (hc : s.coeffs = some c) :
    exec .compp s = .next { s with pp := some (compPOf raw tf c) } := by
  rw [exec_eq_uopMeaning rfl, uopMeaning, execCompp, hraw, readReg_some, htf, readReg_some, hc, readReg_some]

/-- Settles O31: the next state by `exec_compp_of_operands`, its result by `compPOf_reading`. -/
theorem comppFollowsTheIntegerFormula : Obligations.ComppFollowsTheIntegerFormula := by
  intro s raw tf c hraw htf hc
  refine ⟨compPOf raw tf c, exec_compp_of_operands hraw htf hc, ?_⟩
  rw [← compPOf_reading]
  cases compPOf raw tf c with
  | pascals p => rfl
  | unavailable => trivial

end Sys2Proof.Machine
end


section
/-! Proofs of the statement about 44_humidity.md, R150. The idea: every line up to `z2` is signed and is read
as in R130; the two lines `c` are a maximum and a minimum of signed readings; and the clamped value is not
negative, so after the last shift the signed and the unsigned reading agree. -/

namespace Sys2Proof.Machine

/-! ### The lines up to `z2` (R150) -/

theorem humX_toInt (adcH v h4 h5 : Word) :
    (humX adcH v h4 h5).toInt =
      Ref.sar (Ref.wrap (Ref.wrap (Ref.wrap (Ref.wrap (adcH.toInt * 2 ^ 14) - Ref.wrap (h4.toInt * 2 ^ 20)) -
        Ref.wrap (h5.toInt * v.toInt)) + 16384)) 15 := by
  simp only [humX, add32_toInt_eq_wrap, sub32_toInt_eq_wrap, mul32_toInt_eq_wrap, shl32_toInt_eq_wrap,
    asr32_toInt_eq_sar]
  rfl

theorem humY_toInt (v h2 h3 h6 : Word) :
    (humY v h2 h3 h6).toInt =
      let y1 := Ref.sar (Ref.wrap (v.toInt * h6.toInt)) 10
      let y2 := Ref.wrap (Ref.sar (Ref.wrap (v.toInt * h3.toInt)) 11 + 32768)
      let y3 := Ref.wrap (Ref.sar (Ref.wrap (y1 * y2)) 10 + 2097152)
      Ref.sar (Ref.wrap (Ref.wrap (y3 * h2.toInt) + 8192)) 14 := by
  simp only [humY, add32_toInt_eq_wrap, mul32_toInt_eq_wrap, asr32_toInt_eq_sar]
  rfl

theorem humZ2_toInt (z h1 : Word) :
    (humZ2 z h1).toInt =
      let k := Ref.sar z.toInt 15
      Ref.wrap (z.toInt - Ref.sar (Ref.wrap (Ref.sar (Ref.wrap (k * k)) 7 * h1.toInt)) 4) := by
  simp only [humZ2, sub32_toInt_eq_wrap, mul32_toInt_eq_wrap, asr32_toInt_eq_sar]

theorem humPre_toInt (adcH tFine h1 h2 h3 h4 h5 h6 : Word) :
    (humPre adcH tFine h1 h2 h3 h4 h5 h6).toInt =
      Ref.humPre adcH.toInt tFine.toInt h1.toInt h2.toInt h3.toInt h4.toInt h5.toInt h6.toInt := by
  have hv : (sub32 tFine 76800#32).toInt = Ref.wrap (tFine.toInt - 76800) := sub32_toInt_eq_wrap tFine 76800#32
  rw [humPre, humZ2_toInt, mul32_toInt_eq_wrap, humX_toInt, humY_toInt, hv, Ref.humPre]

/-! ### The clamp (R150, the two lines `c`) -/

/-- R12: the signed comparison that raises `a` to `b`. -/
theorem ite_lts32_toInt_eq_max (a b : Word) : (if lts32 a b then b else a).toInt = max a.toInt b.toInt := by
  by_cases hlt : a.toInt < b.toInt
  · rw [if_pos ((lts32_iff a b).mpr hlt), max_eq_right hlt.le]
  · rw [if_neg (mt (lts32_iff a b).mp hlt), max_eq_left (not_lt.mp hlt)]

/-- R12: the signed comparison that lowers `a` to `b`. -/
theorem ite_lts32_toInt_eq_min (a b : Word) : (if lts32 b a then b else a).toInt = min a.toInt b.toInt := by
  by_cases hlt : b.toInt < a.toInt
  · rw [if_pos ((lts32_iff b a).mpr hlt), min_eq_right hlt.le]
  · rw [if_neg (mt (lts32_iff b a).mp hlt), min_eq_left (not_lt.mp hlt)]

theorem humClamp_toInt (z2 : Word) : (humClamp z2).toInt = min (max z2.toInt 0) 419430400 := by
  rw [humClamp, ite_lts32_toInt_eq_min, ite_lts32_toInt_eq_max]
  rfl

/-! ### `COMPH` (R150) -/

/-- A word whose signed reading is not negative has that unsigned reading too. -/
theorem toNat_eq_toInt_of_nonneg {w : Word} (h : 0 ≤ w.toInt) : (w.toNat : Int) = w.toInt := by
  have hw : w.toInt < 2 ^ 31 := BitVec.toInt_lt
  rw [unsignedReading_eq_emod, Int.emod_eq_of_lt h (by omega)]

/-- R150, on any eight words, with the signed reading. -/
theorem compH_toInt (adcH tFine h1 h2 h3 h4 h5 h6 : Word) :
    (compH adcH tFine h1 h2 h3 h4 h5 h6).toInt =
      Ref.hum adcH.toInt tFine.toInt h1.toInt h2.toInt h3.toInt h4.toInt h5.toInt h6.toInt := by
  rw [compH, asr32_toInt_eq_sar, humClamp_toInt, humPre_toInt, Ref.hum, Config.humOutShift]

/-- R150: the clamp leaves nothing below 0. -/
theorem refHum_nonneg (adcH tFine h1 h2 h3 h4 h5 h6 : Int) : 0 ≤ Ref.hum adcH tFine h1 h2 h3 h4 h5 h6 :=
  Int.ediv_nonneg (le_min (le_max_right _ _) (by decide)) (by decide)

/-- R150, on any eight words. -/
theorem compH_toNat (adcH tFine h1 h2 h3 h4 h5 h6 : Word) :
    ((compH adcH tFine h1 h2 h3 h4 h5 h6).toNat : Int) =
      Ref.hum adcH.toInt tFine.toInt h1.toInt h2.toInt h3.toInt h4.toInt h5.toInt h6.toInt := by
  have hnonneg : 0 ≤ (compH adcH tFine h1 h2 h3 h4 h5 h6).toInt := by
    rw [compH_toInt]
    exact refHum_nonneg ..
  rw [toNat_eq_toInt_of_nonneg hnonneg, compH_toInt]

/-- R150 with the normalised reads of the operands (R23). -/
theorem compHOf_toNat (raw : BitVec 16) (tFine : Word) (c : Coeffs) :
    ((compHOf raw tFine c).toNat : Int) =
      Ref.hum raw.toNat tFine.toInt c.h1.toNat c.h2.toInt c.h3.toNat c.h4.toNat c.h5.toNat c.h6.toInt := by
  simp only [compHOf, compH_toNat, Coeffs.get, zext32_toInt (by decide : 16 < 32), zext32_toInt (by decide : 8 < 32),
    sext32_toInt (by decide : 16 ≤ 32), sext32_toInt (by decide : 8 ≤ 32)]

/-- R150: with its three operands held, `COMPH` hands `hum_q10` on. -/
theorem exec_comph_of_operands {s : State} {raw : BitVec 16} {tf : Word} {c : Coeffs} (hraw : s.rawH = some raw)
    (htf : s.tFine = some tf) (hc : s.coeffs = some c) :
    exec .comph s = .next { s with hh := some (compHOf raw tf c) } := by
  rw [exec_eq_uopMeaning rfl, uopMeaning, execComph, hraw, readReg_some, htf, readReg_some, hc, readReg_some]

/-- Settles O32: the next state by `exec_comph_of_operands`, its word by `compHOf_toNat`. -/
theorem comphFollowsTheIntegerFormula : Obligations.ComphFollowsTheIntegerFormula := fun _ raw tf c hraw htf hc =>
  ⟨compHOf raw tf c, exec_comph_of_operands hraw htf hc, compHOf_toNat raw tf c⟩

end Sys2Proof.Machine
end

section
/-! Proofs of the statements about 45_session.md, R163 to R167: `PUBLISH`, the accessors and `GETSTAT`. The
idea: the three accessors are one function of the register they read, so each of its two branches is said
once; `State.succeed` and `State.raise .noReading` write exactly what R164 and R186 list. -/

namespace Sys2Proof.Machine

/-! ### `PUBLISH` (R163) -/

/-- Settles O40: each of the three reads finds its value, the pressure's by `State.heldPressure_eq_some`. -/
theorem publishWritesTheReading : Obligations.PublishWritesTheReading := by
  intro s tc p hh htc hpp hhh
  have hpressure : s.heldPressure = some p := State.heldPressure_eq_some.mpr hpp
  rw [exec_eq_uopMeaning rfl, uopMeaning, execPublish, htc, readReg_some, hpressure, readReg_some, hhh, readReg_some]

/-! ### The accessors (R164 to R166, R186) -/

/-- R164 to R166: while a reading is published, an accessor answers its register. -/
theorem accessor_of_rdValid {r : DataReg} {v : Option Word} {d : Word} {s : State} (hvalid : s.rdValid = true)
    (hv : v = some d) : accessor r v s = .next (s.succeed d) := by
  rw [accessor, if_pos hvalid, hv, readReg_some]

/-- R186: with no reading published, an accessor refuses without looking at its register. -/
theorem accessor_of_not_rdValid {r : DataReg} {v : Option Word} {s : State} (hinvalid : s.rdValid = false) :
    accessor r v s = .next (s.raise .noReading) := by
  rw [accessor, if_neg (by simp [hinvalid])]

/-- Settles O42: each command is the accessor of its register, and `RD_VALID` selects the branch. -/
theorem accessorsAnswerOrRefuse : Obligations.AccessorsAnswerOrRefuse := by
  refine ⟨rfl, rfl, fun s => ⟨fun hvalid => ⟨fun d hd => ?_, fun d hd => ?_, fun d hd => ?_⟩, ?_⟩⟩
  · exact accessor_of_rdValid (r := .tempCenti) hvalid hd
  · exact accessor_of_rdValid (r := .pressPa) hvalid hd
  · exact accessor_of_rdValid (r := .humQ10) hvalid hd
  · rintro hinvalid i (rfl | rfl | rfl)
    · exact accessor_of_not_rdValid (r := .tempCenti) hinvalid
    · exact accessor_of_not_rdValid (r := .pressPa) hinvalid
    · exact accessor_of_not_rdValid (r := .humQ10) hinvalid

/-! ### `GETSTAT` (R167) -/

/-- Settles O43: the next state is the definition of `GETSTAT`; the view after reset stands in the layout of
the `STATUS` view (R52). -/
theorem getstatAnswersTheStatus : Obligations.GetstatAnswersTheStatus := by
  obtain ⟨-, -, hreset⟩ := statusViewLayout
  exact ⟨fun _ => rfl, hreset⟩

end Sys2Proof.Machine
end

section
/-! Proof of the statement about 60_exceptions.md, R187. The idea: the byte means no host command (R90), so
the step is the refusal, which records exactly what R187 lists. -/

namespace Sys2Proof.Machine

/-! ### The illegal command byte (R187) -/

/-- R90: between commands, a byte that means no host command is taken and refused. -/
theorem step_of_illegalByte {s : State} {b : Byte} {rest : List PortEvent} (hactive : s.active = none)
    (hport : s.port = .command b :: rest) (hdecode : decodeHost b = none) :
    step s = .next (illegalCommand { s with port := rest }) := by
  simp only [step, fetch, hport, hactive, hdecode]

/-- R187, column "Effect": the refusal writes these three fields and no other. -/
theorem illegalCommand_eq (s : State) : illegalCommand s = { s with
    refused := true
    lastStatus := .ended .illegalCmd
    responses := .ended .illegalCmd :: s.responses } := rfl

/-- Settles O14: O6 tells that the byte means no command, so the step is the refusal. -/
theorem illegalByteIsRefused : Obligations.IllegalByteIsRefused := by
  refine ⟨rfl, fun s b rest hactive hport hillegal => ?_⟩
  obtain ⟨-, decodeHost_eq_none_iff⟩ := commandBytesDecode
  have hdecode : decodeHost b = none := (decodeHost_eq_none_iff b).mpr hillegal
  rw [step_of_illegalByte hactive hport hdecode, illegalCommand_eq]

end Sys2Proof.Machine
end

section
/-! Proofs of the statements about 30_encoding.md, R88 to R94: the tables and the encoder agree row by row,
and a host program, being a list, decodes by induction over its commands. -/

namespace Sys2Proof.Machine

/-! ### The encoder (R88, R91) -/

theorem decodeHost_encode {i : Instr} (hi : i.isHost = true) : decodeHost (encode i) = some i := by
  cases i <;> simp only [Instr.isHost, Bool.false_eq_true] at hi <;> rfl

theorem decodeUop_encode {i : Instr} (hi : i.isUop = true) : decodeUop (encode i) = some i := by
  cases i <;> simp only [Instr.isUop, Bool.false_eq_true] at hi <;> rfl

theorem decode_encode (i : Instr) : decode (encode i) = some i := by cases i <;> rfl

/-- R93: the code of an operation, read as an 8-bit word. -/
theorem decodeTableWord_encode (i : Instr) : decodeTableWord 8 (encode i).toNat = some i := by
  rw [decodeTableWord, if_pos ⟨rfl, (encode i).isLt⟩, BitVec.ofNat_toNat, BitVec.setWidth_eq, decode_encode]

theorem uopTable_codes : ∀ row ∈ uopTable, row.1 = encode row.2 := by decide

/-- A byte that decodes, on the port or in the sequencer, is the code of the operation it means. -/
theorem eq_encode_of_decode {b : Byte} {i : Instr} (h : decode b = some i) : b = encode i := by
  cases hhost : decodeHost b with
  | some j =>
    obtain rfl : j = i := by simpa [decode, hhost] using h
    obtain ⟨hcode, -⟩ := decodeHost_eq_some hhost
    exact hcode
  | none =>
    have huop : decodeUop b = some i := by simpa [decode, hhost] using h
    exact uopTable_codes (b, i) (mem_of_tableLookup_eq_some huop)

/-- Settles O8: each decoder gives the operation back, and the rows of the tables are codes of the encoder. -/
theorem decodeAndEncodeAgree : Obligations.DecodeAndEncodeAgree :=
  ⟨fun i => ⟨decode_encode i, decodeTableWord_encode i, decodeHost_encode, decodeUop_encode⟩,
    fun _ _ => eq_encode_of_decode⟩

/-! ### The host program (R94) -/

/-- R94: the codes of a list of host commands decode, byte by byte, to the list. -/
theorem decodeProgram_map_encode {is : List Instr} (his : ∀ i ∈ is, i.isHost = true) :
    decodeProgram (is.map encode) = some is := by
  induction is with
  | nil => rfl
  | cons i rest ih =>
    obtain ⟨hi, hrest⟩ := List.forall_mem_cons.mp his
    rw [List.map_cons, decodeProgram, decodeHost_encode hi, ih hrest]

/-- R90, R94: the lines of a well-formed program expand to host commands only. -/
theorem isHost_of_mem_expansion {p : List Line} (hp : hostProgramWellFormed p = true) :
    ∀ i ∈ p.flatMap Line.expand, i.isHost = true := by
  intro i hi
  obtain ⟨l, hl, hi⟩ := List.mem_flatMap.mp hi
  exact List.all_eq_true.mp (List.all_eq_true.mp hp l hl) i hi

/-- Settles O9: the expansion of the program is a list of host commands, whose codes decode to it. -/
theorem assembledProgramDecodesToItsCommands : Obligations.AssembledProgramDecodesToItsCommands :=
  fun _ hp => decodeProgram_map_encode (isHost_of_mem_expansion hp)

end Sys2Proof.Machine
end

section
/-! Proofs of the statements about the single operations and about the step. The idea: with its operands held,
or its bus read answered, a micro-operation reaches the next state its rule lists, or stops by name; the step
picks the operation by what stands at the port and in the sequencer. -/

namespace Sys2Proof.Machine

/-! ### `CALCOMMIT`, `CALFETCH` and `BURSTRD` (R101, R110, R120) -/

/-- Settles O26: the staged coefficients are there to be read. -/
theorem calcommitWritesTheFile : Obligations.CalcommitWritesTheFile := by
  intro s stg hstg
  rw [exec_eq_uopMeaning rfl, uopMeaning, execCalcommit, hstg, readReg_some]

/-- R101: `CALFETCH` is the reads of the 32 addresses. -/
theorem exec_calfetch (s : State) : exec .calfetch s = calFetch Config.calAddrs s := by
  rw [exec_eq_uopMeaning rfl, uopMeaning, execCalfetch]

theorem exec_burstrd_of_ok {s : State} {b : Burst} (h : s.nextBurst = .ok b) :
    exec .burstrd s = .next { s.takeBurst true with burst := some b, result := some .ok } := by
  rw [exec_eq_uopMeaning rfl, uopMeaning, execBurstrd, h]

theorem exec_burstrd_of_fail {s : State} (h : s.nextBurst = .fail) :
    exec .burstrd s = .next { s.takeBurst false with result := some .fail } := by
  rw [exec_eq_uopMeaning rfl, uopMeaning, execBurstrd, h]

theorem exec_burstrd_of_silent {s : State} (h : s.nextBurst = .silent) :
    exec .burstrd s = .fault .unansweredRead := by
  rw [exec_eq_uopMeaning rfl, uopMeaning, execBurstrd, h]

/-- Settles O28: the two answered forms of the burst; the transaction is the one of `State.takeBurst`. -/
theorem burstrdMakesOneBurst : Obligations.BurstrdMakesOneBurst :=
  fun _ => ⟨fun _ => exec_burstrd_of_ok, exec_burstrd_of_fail⟩

/-! ### The step (R22, R160, R168, R200) -/

/-- Settles O12: `fetch` takes the byte and its command. -/
theorem stepRunsTheAcceptedCommand : Obligations.StepRunsTheAcceptedCommand := by
  intro s b i rest hactive hport hdecode
  simp only [step, fetch, hport, hactive, hdecode]

/-- Inside a command, with no reset at the port, `fetch` looks at the sequencer only. -/
theorem fetch_of_active {s : State} {a : Active} (hactive : s.active = some a)
    (hreset : ∀ rest, s.port ≠ .reset :: rest) :
    fetch s = (uopAt a).elim .lost .uop := by
  unfold fetch
  split
  case h_1 rest hport => exact absurd hport (hreset rest)
  case h_2 b hb hb' =>
    obtain rfl : b = a := Option.some.inj (hb.symm.trans hactive)
    cases uopAt b <;> rfl
  all_goals simp_all

/-- Settles O13: the sequencer names the micro-operation. -/
theorem stepRunsTheMicroOperationAtUpc : Obligations.StepRunsTheMicroOperationAtUpc := by
  intro s a i hactive hi hreset
  simp only [step, fetch_of_active hactive hreset, hi, Option.elim]

/-- U8: a sequencer that stands at no micro-operation stops. -/
theorem step_of_lost {s : State} {a : Active} (hactive : s.active = some a) (hi : uopAt a = none)
    (hreset : ∀ rest, s.port ≠ .reset :: rest) : step s = .fault .noMicroOperation := by
  simp only [step, fetch_of_active hactive hreset, hi, Option.elim]

/-- Settles O15: `fetch` finds nothing to do. -/
theorem idleBlockWaits : Obligations.IdleBlockWaits := by
  intro s hactive hport
  simp only [step, fetch, hport, hactive]

/-- R200: a reset at the port is taken before anything else. -/
theorem step_of_reset {s : State} {rest : List PortEvent} (hport : s.port = .reset :: rest) :
    step s = .next ({ s with port := rest } : State).applyReset := by
  simp only [step, fetch, hport]

/-- Settles O17: the step is the reset, which keeps what is outside the block. -/
theorem resetAbandonsTheCommand : Obligations.ResetAbandonsTheCommand :=
  fun _ _ hport => step_of_reset hport

end Sys2Proof.Machine
end

section
/-! Proofs of the statements about the invariant (R20, R21, R112). One notion carries them: an outcome is
*safe* if its next state has a property and its only stop is an unanswered read. Each micro-operation in its
place has a safe outcome that meets the invariant; so has a host command, which is a run of them; so has
the step. That the invariant is kept and that nothing else stops the machine are the two halves of this. -/

namespace Sys2Proof.Machine

/-! ### Safe outcomes -/

/-- The outcome is a next state with the property `P`, or the stop at a read that is never answered. -/
def SafeOutcome (P : State → Prop) : Out → Prop
  | .next t => P t
  | .fault r => r = .unansweredRead
  | .refused _ => False

theorem SafeOutcome.of_next {P : State → Prop} {o : Out} {t : State} (h : SafeOutcome P o) (ho : o = .next t) :
    P t := by
  rw [ho] at h
  exact h

theorem SafeOutcome.next_or_unanswered {P : State → Prop} {o : Out} (h : SafeOutcome P o) :
    (∃ t, o = .next t) ∨ o = .fault .unansweredRead := by
  cases o with
  | next t => exact .inl ⟨t, rfl⟩
  | fault r => exact .inr (congrArg _ h)
  | refused r => exact h.elim

theorem SafeOutcome.andThen {P Q : State → Prop} {o : Out} {f : State → Out} (h : SafeOutcome P o)
    (hf : ∀ t, P t → SafeOutcome Q (f t)) : SafeOutcome Q (andThen o f) := by
  cases o with
  | next t => exact hf t h
  | fault r => exact h
  | refused r => exact h

/-! ### What the invariant rests on -/

/-- Two states agree in the registers that the invariant speaks of wherever the machine stands. -/
structure State.SameStore (t s : State) : Prop where
  calbuf : t.calbuf = s.calbuf
  coeffs : t.coeffs = s.coeffs
  calValid : t.calValid = s.calValid
  tempCenti : t.tempCenti = s.tempCenti
  pressPa : t.pressPa = s.pressPa
  humQ10 : t.humQ10 = s.humQ10
  rdValid : t.rdValid = s.rdValid

/-- Where the stored registers stay, the invariant is a matter of the new place. -/
theorem State.Inv.of_sameStore {s t : State} (h : s.Inv) (hst : t.SameStore s) (hplace : t.placed) : t.Inv where
  bufferForm := hst.calbuf ▸ h.bufferForm
  bufferAddrs := hst.calbuf ▸ h.bufferAddrs
  coeffsHeld := by rw [hst.calValid, hst.coeffs, h.coeffsHeld]
  coeffsRanged := hst.coeffs ▸ h.coeffsRanged
  readingHeld := by
    rw [hst.rdValid, hst.tempCenti, hst.pressPa, hst.humQ10]
    exact h.readingHeld
  readingCoherent := by
    rw [hst.rdValid, State.publishedCoherent, hst.coeffs, hst.tempCenti, hst.pressPa, hst.humQ10]
    exact h.readingCoherent
  inPlace := hplace

theorem State.Inv.coeffs_of_calValid {s : State} (h : s.Inv) (hcal : s.calValid = true) : ∃ c, s.coeffs = some c :=
  Option.isSome_iff_exists.mp (h.coeffsHeld ▸ hcal)

/-- R54, R163: a reading is one cycle's, so there is none before the load. -/
theorem State.Inv.rdValid_of_not_calValid {s : State} (h : s.Inv) (hcal : s.calValid = false) :
    s.rdValid = false := by
  by_contra hrd
  obtain ⟨b, c, p, hc, -⟩ := h.readingCoherent (by simpa using hrd)
  simp [h.coeffsHeld, hc] at hcal

theorem State.placed_of_idle {s : State} (hactive : s.active = none) : s.placed ↔ s.between := by
  simp [State.placed, hactive]

theorem State.placed_of_load {s : State} {upc : Nat} (hactive : s.active = some ⟨.loadcal, upc⟩) :
    s.placed ↔ s.inLoad upc := by
  simp [State.placed, hactive]

theorem State.placed_of_cycle {s : State} {upc : Nat} (hactive : s.active = some ⟨.readcomp, upc⟩) :
    s.placed ↔ s.inCycle upc := by
  simp [State.placed, hactive]

theorem State.SameStore.advance {s t : State} (h : t.SameStore s) : t.advance.SameStore s :=
  { h with }

/-- R22: where the stored registers stay, a micro-operation of `LOADCAL` that goes on has to reach the next
place. -/
theorem State.Inv.advance_load {s t : State} {upc : Nat} (h : s.Inv) (hst : t.SameStore s)
    (hactive : t.active = some ⟨.loadcal, upc⟩) (hplace : t.inLoad (upc + 1)) : t.advance.Inv := by
  have hnext : t.advance.active = some ⟨.loadcal, upc + 1⟩ := by simp [hactive]
  exact h.of_sameStore hst.advance ((State.placed_of_load hnext).mpr hplace)

/-- R22: the same inside `READCOMP`. -/
theorem State.Inv.advance_cycle {s t : State} {upc : Nat} (h : s.Inv) (hst : t.SameStore s)
    (hactive : t.active = some ⟨.readcomp, upc⟩) (hplace : t.inCycle (upc + 1)) : t.advance.Inv := by
  have hnext : t.advance.active = some ⟨.readcomp, upc + 1⟩ := by simp [hactive]
  exact h.of_sameStore hst.advance ((State.placed_of_cycle hnext).mpr hplace)

/-- R107, R108, R111: the decoded `H4` and `H5` have 12 significant bits. -/
theorem decodeImage_ranged (img : Addr → Byte) : (decodeImage img).ranged := by
  have hmod : ∀ w : Word, w.toNat ≤ 4095 → (w.setWidth 16).toNat ≤ 4095 := fun w hw => by
    rw [BitVec.toNat_setWidth]
    omega
  have h4 := decH4_toNat (img 0xE4#8) (img 0xE5#8)
  have h5 := decH5_toNat (img 0xE6#8) (img 0xE5#8)
  exact ⟨hmod _ (by omega), hmod _ (by omega)⟩

/-! ### The micro-operations of `LOADCAL` in their places -/

theorem uop_calfetch_safe {s : State} (h : s.Inv) (hactive : s.active = some ⟨.loadcal, 0⟩) :
    SafeOutcome State.Inv (andThen (exec .calfetch s) (sequencer .calfetch)) := by
  obtain ⟨hcal, hss, hraw, -⟩ := (State.placed_of_load hactive).mp h.inPlace
  rw [exec_calfetch]
  rcases calFetch_stop (as := Config.calAddrs) (s := s) with ⟨u, hu⟩ | hstop
  case inr =>
    rw [hstop]
    exact rfl
  obtain ⟨m, rd, dr, r, l, rfl, hform, haddrs, -, hend⟩ := calFetch_cases hu
  have hbuf : ∀ x ∈ m, ∃ a ∈ Config.calAddrs, x.1 = a.toNat := fun x hx => (haddrs x hx).elim (h.bufferAddrs x) id
  rw [hu, andThen_next]
  rcases hend with ⟨rfl, hall, -⟩ | ⟨rfl, -⟩
  · have hcomplete : Memory.complete m = true := List.all_eq_true.mpr hall
    exact ⟨hform h.bufferForm, hbuf, h.coeffsHeld, h.coeffsRanged, h.readingHeld, h.readingCoherent,
      (State.placed_of_load (upc := 1) (by simp [hactive])).mpr ⟨hcal, hss, hraw, hcomplete⟩⟩
  · exact ⟨hform h.bufferForm, hbuf, h.coeffsHeld, h.coeffsRanged, h.readingHeld, h.readingCoherent,
      (State.placed_of_idle rfl).mpr ⟨⟨rfl, rfl, rfl, rfl, rfl⟩, hraw, .inl ⟨hcal, hss⟩⟩⟩

theorem uop_caldec_safe {s : State} (h : s.Inv) (hactive : s.active = some ⟨.loadcal, 1⟩) :
    SafeOutcome State.Inv (andThen (exec .caldec s) (sequencer .caldec)) := by
  obtain ⟨hcal, hss, hraw, hcomplete⟩ := (State.placed_of_load hactive).mp h.inPlace
  rw [exec_caldec_of_complete hcomplete]
  exact h.advance_load ⟨rfl, rfl, rfl, rfl, rfl, rfl, rfl⟩ hactive ⟨hcal, hss, hraw, _, rfl, decodeImage_ranged _⟩

theorem uop_calcommit_safe {s : State} (h : s.Inv) (hactive : s.active = some ⟨.loadcal, 2⟩) :
    SafeOutcome State.Inv (andThen (exec .calcommit s) (sequencer .calcommit)) := by
  obtain ⟨hcal, -, hraw, c, hstg, hranged⟩ := (State.placed_of_load hactive).mp h.inPlace
  have hrd := h.rdValid_of_not_calValid hcal
  rw [calcommitWritesTheFile s c hstg]
  exact ⟨h.bufferForm, h.bufferAddrs, rfl, fun d hd => Option.some.inj hd ▸ hranged, h.readingHeld,
    fun hread => absurd (hrd.symm.trans hread) Bool.false_ne_true,
    (State.placed_of_idle rfl).mpr ⟨⟨rfl, rfl, rfl, rfl, rfl⟩, hraw, .inr ⟨rfl, rfl⟩⟩⟩

/-! ### The micro-operations of `READCOMP` in their places -/

/-- R162: a cycle that ends early leaves the stored registers and the machine `Ready`. -/
theorem abortCycle_inv {s u : State} (c : Cause) (h : s.Inv) (hst : u.SameStore s) (hcal : s.calValid = true)
    (hraw : u.rawFromBurst) : (abortCycle c u).Inv := by
  refine h.of_sameStore ?_ ((State.placed_of_idle rfl).mpr ⟨⟨rfl, rfl, rfl, rfl, rfl⟩, ?_, .inr ⟨?_, ?_⟩⟩)
  · obtain ⟨hbuf, hco, hcv, htc, hpp, hhh, hrd⟩ := hst
    constructor <;> simpa [abortCycle]
  · simpa [abortCycle, State.rawFromBurst] using hraw
  · simp [abortCycle, hst.calValid, hcal]
  · simp [abortCycle]

theorem uop_burstrd_safe {s : State} (h : s.Inv) (hactive : s.active = some ⟨.readcomp, 0⟩) :
    SafeOutcome State.Inv (andThen (exec .burstrd s) (sequencer .burstrd)) := by
  obtain ⟨hcal, hss, hraw⟩ := (State.placed_of_cycle hactive).mp h.inPlace
  cases hb : s.nextBurst with
  | ok b =>
    rw [exec_burstrd_of_ok hb]
    exact h.advance_cycle ⟨rfl, rfl, rfl, rfl, rfl, rfl, rfl⟩ hactive ⟨hcal, hss, b, rfl⟩
  | fail =>
    rw [exec_burstrd_of_fail hb]
    exact abortCycle_inv .ioFailure h ⟨rfl, rfl, rfl, rfl, rfl, rfl, rfl⟩ hcal hraw
  | silent =>
    rw [exec_burstrd_of_silent hb]
    exact rfl

theorem uop_rawdec_safe {s : State} (h : s.Inv) (hactive : s.active = some ⟨.readcomp, 1⟩) :
    SafeOutcome State.Inv (andThen (exec .rawdec s) (sequencer .rawdec)) := by
  obtain ⟨hcal, -, b, hb⟩ := (State.placed_of_cycle hactive).mp h.inPlace
  have hraw : some (burstP b) = s.burst.map burstP ∧ some (burstT b) = s.burst.map burstT ∧
      some (burstH b) = s.burst.map burstH := by simp [hb]
  rw [exec_rawdec_of_burst hb]
  exact h.advance_cycle ⟨rfl, rfl, rfl, rfl, rfl, rfl, rfl⟩ hactive ⟨hcal, rfl, hraw, b, hb⟩

/-- R205: where the raw registers are the decode of the burst, they hold its values. -/
theorem State.rawFromBurst.held {s : State} {b : Burst} (h : s.rawFromBurst) (hb : s.burst = some b) :
    s.rawP = some (burstP b) ∧ s.rawT = some (burstT b) ∧ s.rawH = some (burstH b) := by
  simpa [State.rawFromBurst, hb] using h

theorem uop_compt_safe {s : State} (h : s.Inv) (hactive : s.active = some ⟨.readcomp, 2⟩) :
    SafeOutcome State.Inv (andThen (exec .compt s) (sequencer .compt)) := by
  obtain ⟨hcal, hss, hraw, b, hb⟩ := (State.placed_of_cycle hactive).mp h.inPlace
  obtain ⟨c, hc⟩ := h.coeffs_of_calValid hcal
  obtain ⟨-, hrawT, -⟩ := hraw.held hb
  rw [exec_compt_of_operands hrawT hc]
  exact h.advance_cycle ⟨rfl, rfl, rfl, rfl, rfl, rfl, rfl⟩ hactive ⟨hcal, hss, hraw, b, c, hb, hc, rfl, rfl⟩

theorem uop_compp_safe {s : State} (h : s.Inv) (hactive : s.active = some ⟨.readcomp, 3⟩) :
    SafeOutcome State.Inv (andThen (exec .compp s) (sequencer .compp)) := by
  obtain ⟨hcal, hss, hraw, b, c, hb, hc, htf, htc⟩ := (State.placed_of_cycle hactive).mp h.inPlace
  obtain ⟨hrawP, -, -⟩ := hraw.held hb
  have hpp : exec .compp s = .next { s with pp := some (cycleP b c) } := exec_compp_of_operands hrawP htf hc
  rw [hpp, andThen_next, sequencer, readReg_some]
  cases hp : cycleP b c with
  | pascals p =>
    exact h.advance_cycle ⟨rfl, rfl, rfl, rfl, rfl, rfl, rfl⟩ hactive
      ⟨hcal, hss, hraw, b, c, p, hb, hc, ⟨htf, htc⟩, hp, rfl⟩
  | unavailable => exact abortCycle_inv .unavailable h ⟨rfl, rfl, rfl, rfl, rfl, rfl, rfl⟩ hcal hraw

theorem uop_comph_safe {s : State} (h : s.Inv) (hactive : s.active = some ⟨.readcomp, 4⟩) :
    SafeOutcome State.Inv (andThen (exec .comph s) (sequencer .comph)) := by
  obtain ⟨hcal, hss, hraw, b, c, p, hb, hc, ⟨htf, htc⟩, hp, hpp⟩ := (State.placed_of_cycle hactive).mp h.inPlace
  obtain ⟨-, -, hrawH⟩ := hraw.held hb
  rw [exec_comph_of_operands hrawH htf hc]
  exact h.advance_cycle ⟨rfl, rfl, rfl, rfl, rfl, rfl, rfl⟩ hactive
    ⟨hcal, hss, hraw, b, c, p, hb, hc, ⟨htf, htc⟩, hp, hpp, rfl⟩

theorem uop_publish_safe {s : State} (h : s.Inv) (hactive : s.active = some ⟨.readcomp, 5⟩) :
    SafeOutcome State.Inv (andThen (exec .publish s) (sequencer .publish)) := by
  obtain ⟨hcal, hss, hraw, b, c, p, hb, hc, ⟨-, htc⟩, hp, hpp, hhh⟩ := (State.placed_of_cycle hactive).mp h.inPlace
  rw [publishWritesTheReading s _ p _ htc hpp hhh]
  exact ⟨h.bufferForm, h.bufferAddrs, h.coeffsHeld, h.coeffsRanged, ⟨rfl, rfl, rfl⟩,
    fun _ => ⟨b, c, p, hc, hp, rfl, rfl, rfl⟩,
    (State.placed_of_idle rfl).mpr ⟨⟨rfl, rfl, rfl, rfl, rfl⟩, hraw, .inr ⟨hcal, rfl⟩⟩⟩

/-! ### The microprograms, the commands and the step -/

/-- R92: whatever micro-operation stands at `UPC`, it is safe there. -/
theorem uop_safe {s : State} {a : Active} {i : Instr} (h : s.Inv) (hactive : s.active = some a)
    (hi : uopAt a = some i) : SafeOutcome State.Inv (andThen (exec i s) (sequencer i)) := by
  have hplace := uopPlace_of_uopAt hi
  cases i <;> simp only [uopPlace, Option.some.injEq, reduceCtorEq] at hplace <;> subst hplace
  case calfetch => exact uop_calfetch_safe h hactive
  case caldec => exact uop_caldec_safe h hactive
  case calcommit => exact uop_calcommit_safe h hactive
  case burstrd => exact uop_burstrd_safe h hactive
  case rawdec => exact uop_rawdec_safe h hactive
  case compt => exact uop_compt_safe h hactive
  case compp => exact uop_compp_safe h hactive
  case comph => exact uop_comph_safe h hactive
  case publish => exact uop_publish_safe h hactive

/-- R22, U8: where the invariant holds, the sequencer stands at a micro-operation. -/
theorem State.Inv.uopAt_isSome {s : State} {a : Active} (h : s.Inv) (hactive : s.active = some a) :
    ∃ i, uopAt a = some i := by
  obtain ⟨cmd, upc⟩ := a
  cases cmd with
  | loadcal =>
    have hplace := (State.placed_of_load hactive).mp h.inPlace
    rcases upc with _ | _ | _ | upc
    case succ.succ.succ => exact absurd hplace (by simp [State.inLoad])
    all_goals exact ⟨_, rfl⟩
  | readcomp =>
    have hplace := (State.placed_of_cycle hactive).mp h.inPlace
    rcases upc with _ | _ | _ | _ | _ | _ | upc
    case succ.succ.succ.succ.succ.succ => exact absurd hplace (by simp [State.inCycle])
    all_goals exact ⟨_, rfl⟩

/-- R160: any number of micro-operations of a command in progress. -/
theorem runMicro_safe {n : Nat} {s : State} (h : s.Inv) : SafeOutcome State.Inv (runMicro n s) := by
  induction n generalizing s with
  | zero => exact h
  | succ n ih =>
    cases hactive : s.active with
    | none =>
      rw [runMicro_idle hactive]
      exact h
    | some a =>
      obtain ⟨i, hi⟩ := h.uopAt_isSome hactive
      rw [runMicro_step hactive hi, ← exec_eq_uopMeaning (uopAt_isUop hi)]
      exact (uop_safe h hactive hi).andThen fun _ => ih

/-- R22, R161: acceptance takes an admitted command to the first place of its microprogram. -/
theorem State.Inv.accept_loadcal {s : State} (h : s.Inv) (hactive : s.active = none) (hcal : s.calValid = false) :
    (s.accept .loadcal).Inv := by
  obtain ⟨-, hraw, ⟨-, hss⟩ | ⟨hcal', -⟩⟩ := (State.placed_of_idle hactive).mp h.inPlace
  · exact h.of_sameStore ⟨rfl, rfl, rfl, rfl, rfl, rfl, rfl⟩ ((State.placed_of_load rfl).mpr ⟨hcal, hss, hraw, trivial⟩)
  · simp [hcal] at hcal'

theorem State.Inv.accept_readcomp {s : State} (h : s.Inv) (hactive : s.active = none)
    (hss : s.ss ≠ .uninitialized) : (s.accept .readcomp).Inv := by
  obtain ⟨-, hraw, ⟨-, hss'⟩ | ⟨hcal, -⟩⟩ := (State.placed_of_idle hactive).mp h.inPlace
  · exact absurd hss' hss
  · exact h.of_sameStore ⟨rfl, rfl, rfl, rfl, rfl, rfl, rfl⟩ ((State.placed_of_cycle (upc := 0) rfl).mpr ⟨hcal, rfl, hraw⟩)

/-- Between commands, the stored registers, the raw ones and `SS` are all that the invariant looks at. -/
theorem State.Inv.of_same_between {s t : State} (h : s.Inv) (hactive : s.active = none) (hst : t.SameStore s)
    (hactive' : t.active = none) (hlocals : s.noLocals → t.noLocals) (hraw : s.rawFromBurst → t.rawFromBurst)
    (hss : t.ss = s.ss) : t.Inv := by
  obtain ⟨hno, hrb, hsess⟩ := (State.placed_of_idle hactive).mp h.inPlace
  refine h.of_sameStore hst ((State.placed_of_idle hactive').mpr ⟨hlocals hno, hraw hrb, ?_⟩)
  rwa [hst.calValid, hss]

theorem State.Inv.raise {s : State} (c : Cause) (h : s.Inv) (hactive : s.active = none) : (s.raise c).Inv :=
  h.of_same_between hactive (by constructor <;> simp) (by simpa) (by simp [State.noLocals])
    (by simp [State.rawFromBurst]) (by simp)

theorem State.Inv.succeed {s : State} (d : Word) (h : s.Inv) (hactive : s.active = none) : (s.succeed d).Inv :=
  h.of_same_between hactive ⟨rfl, rfl, rfl, rfl, rfl, rfl, rfl⟩ hactive id id rfl

theorem accessor_safe {r : DataReg} {v : Option Word} {s : State} (h : s.Inv) (hactive : s.active = none)
    (hheld : s.rdValid = v.isSome) : SafeOutcome State.Inv (accessor r v s) := by
  cases v with
  | none =>
    rw [accessor_of_not_rdValid (by simpa using hheld)]
    exact h.raise _ hactive
  | some d =>
    rw [accessor_of_rdValid (by simpa using hheld) rfl]
    exact h.succeed d hactive

/-- R160: a host command, run to completion. -/
theorem exec_host_safe {i : Instr} {s : State} (h : s.Inv) (hactive : s.active = none) (hi : i.isHost = true) :
    SafeOutcome State.Inv (exec i s) := by
  obtain ⟨htemp, hpress, hhum⟩ := h.readingHeld
  cases i <;> simp only [Instr.isHost, Bool.false_eq_true] at hi
  case loadcal =>
    change SafeOutcome _ (execLoadcal s)
    unfold execLoadcal
    split
    · exact h.raise _ hactive
    · exact runMicro_safe (h.accept_loadcal hactive (by simp_all))
  case readcomp =>
    change SafeOutcome _ (execReadcomp s)
    unfold execReadcomp
    split
    · exact h.raise _ hactive
    · exact runMicro_safe (h.accept_readcomp hactive (by assumption))
  case gett => exact accessor_safe h hactive htemp
  case getp => exact accessor_safe h hactive hpress
  case geth => exact accessor_safe h hactive hhum
  case getstat => exact h.of_same_between hactive ⟨rfl, rfl, rfl, rfl, rfl, rfl, rfl⟩ hactive id id rfl

/-- Settles O57: nothing is held, and the machine stands between commands. -/
theorem resetSatisfiesTheInvariant : Obligations.ResetSatisfiesTheInvariant where
  bufferForm := reset_buffer_wf
  bufferAddrs := fun _ hx => absurd hx List.not_mem_nil
  coeffsHeld := rfl
  coeffsRanged := fun _ hc => nomatch hc
  readingHeld := ⟨rfl, rfl, rfl⟩
  readingCoherent := fun hrd => nomatch hrd
  inPlace := (State.placed_of_idle rfl).mpr ⟨⟨rfl, rfl, rfl, rfl, rfl⟩, ⟨rfl, rfl, rfl⟩, .inl ⟨rfl, rfl⟩⟩

/-- R201: a reset leaves the reset state, whatever it interrupts. -/
theorem State.applyReset_inv (s : State) : s.applyReset.Inv :=
  State.Inv.of_sameStore resetSatisfiesTheInvariant ⟨rfl, rfl, rfl, rfl, rfl, rfl, rfl⟩
    resetSatisfiesTheInvariant.inPlace

/-- The port is no part of the invariant. -/
theorem State.Inv.withPort {s : State} (h : s.Inv) (p : List PortEvent) : ({ s with port := p } : State).Inv :=
  h.of_sameStore ⟨rfl, rfl, rfl, rfl, rfl, rfl, rfl⟩ h.inPlace

/-- Every step from a state of the invariant is safe, and its next state is one of the invariant. -/
theorem step_safe {s : State} (h : s.Inv) : SafeOutcome State.Inv (step s) := by
  by_cases hreset : ∃ rest, s.port = .reset :: rest
  · obtain ⟨rest, hport⟩ := hreset
    rw [step_of_reset hport]
    exact State.applyReset_inv _
  cases hactive : s.active with
  | some a =>
    obtain ⟨i, hi⟩ := h.uopAt_isSome hactive
    rw [stepRunsTheMicroOperationAtUpc s a i hactive hi (not_exists.mp hreset)]
    exact uop_safe h hactive hi
  | none =>
    rcases hport : s.port with _ | ⟨b | _, rest⟩
    · rw [idleBlockWaits s hactive hport]
      exact h
    · cases hdecode : decodeHost b with
      | some i =>
        obtain ⟨-, hhost⟩ := decodeHost_eq_some hdecode
        rw [stepRunsTheAcceptedCommand s b i rest hactive hport hdecode]
        exact exec_host_safe (h.withPort rest) hactive hhost
      | none =>
        rw [step_of_illegalByte hactive hport hdecode]
        exact (h.withPort rest).raise .illegalCmd hactive
    · exact absurd ⟨rest, hport⟩ hreset

/-- Settles O58: the next state of a safe step. -/
theorem stepKeepsTheInvariant : Obligations.StepKeepsTheInvariant := fun _ _ h => (step_safe h).of_next

/-- Settles O59: the stop of a safe step. -/
theorem onlyAnUnansweredReadStops : Obligations.OnlyAnUnansweredReadStops := fun _ h =>
  (step_safe h).next_or_unanswered

end Sys2Proof.Machine
end

section
/-! Proofs of the statements about 40_calibration.md, R69, R101, R111 and R100. The idea: `CALFETCH` is decided
by the first answer that is no byte, so the address list is cut there; `LOADCAL` is its microprogram, whose
two other parts always find their operands. -/

namespace Sys2Proof.Machine

/-! ### The addresses (R69) -/

/-- Settles O20: the list is written out in Config, and a byte is in it exactly if it is in the ranges. -/
theorem calibrationAddressesAscend : Obligations.CalibrationAddressesAscend := by
  refine ⟨rfl, by decide, fun a => ?_⟩
  simp only [Config.calAddrs, Config.tpAddrs, Config.humAddrs, List.cons_append, List.nil_append, List.mem_cons,
    List.not_mem_nil, or_false, BitVec.le_def, ← BitVec.toNat_inj, BitVec.toNat_ofNat]
  omega

/-! ### `CALFETCH` up to the first answer that is no byte (R101) -/

/-- A list is what stands before the place `n`, the entry there, and what stands after it. -/
theorem take_append_getElem_cons_drop {as : List Addr} {n : Nat} (hn : n < as.length) :
    as.take n ++ as[n] :: as.drop (n + 1) = as := by
  rw [← List.drop_eq_getElem_cons hn, List.take_append_drop]

/-- The answers before the place `n`, as the answers to the addresses before it. -/
theorem answers_take {s : State} {img : Addr → Byte} {as : List Addr} {n : Nat} (hn : n < as.length)
    (h : ∀ k (hk : k < n), s.answerAt k = .ok (img as[k])) :
    ∀ k (hk : k < (as.take n).length), s.answerAt k = .ok (img (as.take n)[k]) := by
  intro k hk
  rw [List.getElem_take]
  exact h k (by simpa [hn.le] using hk)

/-- R101: the read of the address at the place `n` is the first to fail. -/
theorem calFetch_fail_at {s : State} {img : Addr → Byte} {as : List Addr} {n : Nat} (hn : n < as.length)
    (h : ∀ k (hk : k < n), s.answerAt k = .ok (img as[k])) (hfail : s.answerAt n = .fail) :
    calFetch as s = .next { s with
      calbuf := storeAll img (as.take n) s.calbuf
      result := some .fail
      reads := s.reads.drop (n + 1)
      draws := s.draws + (n + 1 - s.reads.length)
      busLog := ⟨Config.devAddr, as[n], 1, false⟩ ::
        ((as.take n).map fun a => (⟨Config.devAddr, a, 1, true⟩ : Transaction)).reverse ++ s.busLog } := by
  have hlen : (as.take n).length = n := List.length_take_of_le hn.le
  have hcut := calFetch_fail (post := as.drop (n + 1)) (a := as[n]) (answers_take hn h) (hlen.symm ▸ hfail)
  rwa [take_append_getElem_cons_drop, hlen] at hcut

/-- R209: the read of the address at the place `n` is the first not to deliver, and it is never answered. -/
theorem calFetch_silent_at {s : State} {img : Addr → Byte} {as : List Addr} {n : Nat} (hn : n < as.length)
    (h : ∀ k (hk : k < n), s.answerAt k = .ok (img as[k])) (hsilent : s.answerAt n = .silent) :
    calFetch as s = .fault .unansweredRead := by
  have hlen : (as.take n).length = n := List.length_take_of_le hn.le
  have hcut := calFetch_silent (post := as.drop (n + 1)) (a := as[n]) (answers_take hn h) (hlen.symm ▸ hsilent)
  rwa [take_append_getElem_cons_drop] at hcut

/-- Settles O21: all reads answered, or the list cut at the failing one. -/
theorem calfetchReadsUntilFail : Obligations.CalfetchReadsUntilFail := by
  refine fun s img => ⟨fun h => ?_, fun n hn h hfail => ?_⟩
  · rw [exec_calfetch, calFetch_ok h]
    rfl
  · rw [exec_calfetch, calFetch_fail_at hn h hfail]
    rfl

/-- Settles O22: the buffer is the one `storeAll` leaves, of the addresses read. -/
theorem calfetchFillsTheBuffer : Obligations.CalfetchFillsTheBuffer := by
  refine fun s img => ⟨fun h => ?_, fun n hn h hfail => ?_⟩
  · obtain ⟨hok, -⟩ := calfetchReadsUntilFail s img
    refine ⟨_, hok h, rfl, ?_⟩
    dsimp only
    exact ⟨fun _ => storeAll_read, fun _ => storeAll_read_other, storeAll_wf, storeAll_complete img s.calbuf⟩
  · obtain ⟨-, hcut⟩ := calfetchReadsUntilFail s img
    refine ⟨_, hcut n hn h hfail, rfl, ?_⟩
    dsimp only
    exact ⟨fun _ => storeAll_read, fun _ => storeAll_read_other, storeAll_wf⟩

/-! ### `LOADCAL` (R100) -/

/-- R92: a micro-operation that completes, with what the sequencer does after it. -/
theorem runMicro_of_next {n : Nat} {s t : State} {a : Active} {i : Instr} (hactive : s.active = some a)
    (hi : uopAt a = some i) (h : andThen (exec i s) (sequencer i) = .next t) : runMicro (n + 1) s = runMicro n t := by
  rw [runMicro_step hactive hi, ← exec_eq_uopMeaning (uopAt_isUop hi), h, andThen_next]

/-- A micro-operation of a command in progress that stops. -/
theorem runMicro_stop {n : Nat} {s : State} {a : Active} {i : Instr} {r : Fault} (hactive : s.active = some a)
    (hi : uopAt a = some i) (hstop : exec i s = .fault r) : runMicro (n + 1) s = .fault r := by
  rw [runMicro_step hactive hi, ← exec_eq_uopMeaning (uopAt_isUop hi), hstop, andThen_fault, andThen_fault]

theorem exec_loadcal_of_not_calValid {s : State} (hcal : s.calValid = false) :
    exec .loadcal s = runMicro 3 (s.accept .loadcal) := by
  simp [exec, execLoadcal, hcal]

/-- R102: the buffer with all the bytes stored decodes to the image's coefficients. -/
theorem calDec_storeAll (img : Addr → Byte) (m : Memory) :
    calDec (storeAll img Config.calAddrs m) = some (decodeImage img) :=
  calDec_eq_some.mpr ⟨storeAll_complete img m, decodeImage_congr fun _ ha => (storeAll_image ha).symm⟩

theorem exec_caldec_of_calDec {s : State} {c : Coeffs} (h : calDec s.calbuf = some c) :
    exec .caldec s = .next { s with stg := some c } := by
  rw [exec_eq_uopMeaning rfl, uopMeaning, execCaldec, h, readReg_some]

/-- R100: once the bytes are in the buffer, the load goes through. -/
theorem exec_loadcal_of_fetched {s u : State} {c : Coeffs} (hcal : s.calValid = false)
    (hu : exec .calfetch (s.accept .loadcal) = .next u) (hactive : u.active = some ⟨.loadcal, 0⟩)
    (hresult : u.result = some .ok) (hdec : calDec u.calbuf = some c) :
    exec .loadcal s = .next (completeLoad { u with coeffs := some c, calValid := true }) := by
  have hcalfetch : andThen (exec .calfetch (s.accept .loadcal)) (sequencer .calfetch) = .next u.advance := by
    rw [hu, andThen_next, sequencer, hresult, readReg_some]
  have hcaldec : andThen (exec .caldec u.advance) (sequencer .caldec) =
      .next ({ u.advance with stg := some c } : State).advance := by
    rw [exec_caldec_of_calDec (s := u.advance) hdec]
    rfl
  have hcalcommit := calcommitWritesTheFile ({ u.advance with stg := some c } : State).advance c rfl
  have hend : andThen (exec .calcommit ({ u.advance with stg := some c } : State).advance) (sequencer .calcommit) =
      .next (completeLoad { u with coeffs := some c, calValid := true }) := by
    rw [hcalcommit]
    rfl
  rw [exec_loadcal_of_not_calValid hcal, runMicro_of_next rfl rfl hcalfetch,
    runMicro_of_next (a := ⟨.loadcal, 1⟩) (by simp [hactive]) rfl hcaldec,
    runMicro_of_next (a := ⟨.loadcal, 2⟩) (by simp [hactive]) rfl hend, runMicro_idle rfl]

/-- R100: a failing read ends the load. -/
theorem exec_loadcal_of_failed {s u : State} (hcal : s.calValid = false)
    (hu : exec .calfetch (s.accept .loadcal) = .next u) (hresult : u.result = some .fail) :
    exec .loadcal s = .next (abortLoad u) := by
  have hend : andThen (exec .calfetch (s.accept .loadcal)) (sequencer .calfetch) = .next (abortLoad u) := by
    rw [hu, andThen_next, sequencer, hresult, readReg_some]
  rw [exec_loadcal_of_not_calValid hcal, runMicro_of_next rfl rfl hend, runMicro_idle rfl]

/-- Settles O27: the refusal, and the two endings as O21 gives the state after the reads. -/
theorem loadcalFollowsItsRule : Obligations.LoadcalFollowsItsRule := by
  refine fun s => ⟨fun hcal => ?_, fun hcal img => ⟨fun h => ?_, fun n hn h hfail => ?_⟩⟩
  · simp [exec, execLoadcal, hcal, State.raise, State.record]
  · obtain ⟨hok, -⟩ := calfetchReadsUntilFail (s.accept .loadcal) img
    rw [exec_loadcal_of_fetched hcal (hok h) rfl rfl (by dsimp only; exact calDec_storeAll img _)]
    simp [completeLoad, State.quit, State.succeed]
  · obtain ⟨-, hcut⟩ := calfetchReadsUntilFail (s.accept .loadcal) img
    rw [exec_loadcal_of_failed hcal (hcut n hn h hfail) rfl]
    rfl

/-! ### Every calibration has an image (R111) -/

/-- R62: the byte of an address in an image given in the read order of R69. -/
def imageOfBytes (bytes : List Byte) (a : Addr) : Byte := ((Config.calAddrs.zip bytes).lookup a).getD 0#8

/-- The low byte of a 16-bit register. -/
def lowByte (v : BitVec 16) : Byte := v.extractLsb' 0 8

/-- The high byte of a 16-bit register. -/
def highByte (v : BitVec 16) : Byte := v.extractLsb' 8 8

/-- R109, from right to left: bytes that decode to a coefficient file, in read order. -/
def Coeffs.bytes (c : Coeffs) : List Byte :=
  [lowByte c.t1, highByte c.t1, lowByte c.t2, highByte c.t2, lowByte c.t3, highByte c.t3,
    lowByte c.p1, highByte c.p1, lowByte c.p2, highByte c.p2, lowByte c.p3, highByte c.p3,
    lowByte c.p4, highByte c.p4, lowByte c.p5, highByte c.p5, lowByte c.p6, highByte c.p6,
    lowByte c.p7, highByte c.p7, lowByte c.p8, highByte c.p8, lowByte c.p9, highByte c.p9,
    c.h1, lowByte c.h2, highByte c.h2, c.h3,
    BitVec.ofNat 8 (c.h4.toNat / 16), BitVec.ofNat 8 (c.h4.toNat % 16 + c.h5.toNat % 16 * 16),
    BitVec.ofNat 8 (c.h5.toNat / 16), c.h6]

theorem highByte_append_lowByte (v : BitVec 16) : highByte v ++ lowByte v = v := by
  apply BitVec.eq_of_toNat_eq
  rw [toNat_append_byte, highByte, lowByte, BitVec.extractLsb'_toNat, BitVec.extractLsb'_toNat,
    Nat.shiftRight_eq_div_pow, Nat.shiftRight_zero]
  omega

theorem decU16LE_bytes (v : BitVec 16) : (decU16LE (lowByte v) (highByte v)).setWidth 16 = v := by
  rw [decU16LE, setWidth_zext32 (by decide), highByte_append_lowByte]

theorem decS16LE_bytes (v : BitVec 16) : (decS16LE (lowByte v) (highByte v)).setWidth 16 = v := by
  rw [decS16LE, setWidth_sext32 (by decide), highByte_append_lowByte]

theorem decU8_bytes (b : Byte) : (decU8 b).setWidth 8 = b := setWidth_zext32 (by decide) b

theorem decS8_bytes (b : Byte) : (decS8 b).setWidth 8 = b := setWidth_sext32 (by decide) b

/-- R107: the byte at 0xE5 carries the low nibble of `H4` in its low half. -/
theorem decH4_bytes {h4 h5 : BitVec 16} (h : h4.toNat ≤ 4095) :
    (decH4 (BitVec.ofNat 8 (h4.toNat / 16)) (BitVec.ofNat 8 (h4.toNat % 16 + h5.toNat % 16 * 16))).setWidth 16 = h4 := by
  apply BitVec.eq_of_toNat_eq
  rw [BitVec.toNat_setWidth, decH4_toNat, BitVec.toNat_ofNat, BitVec.toNat_ofNat]
  omega

/-- R108: the byte at 0xE5 carries the low nibble of `H5` in its high half. -/
theorem decH5_bytes {h4 h5 : BitVec 16} (h : h5.toNat ≤ 4095) :
    (decH5 (BitVec.ofNat 8 (h5.toNat / 16)) (BitVec.ofNat 8 (h4.toNat % 16 + h5.toNat % 16 * 16))).setWidth 16 = h5 := by
  apply BitVec.eq_of_toNat_eq
  rw [BitVec.toNat_setWidth, decH5_toNat, BitVec.toNat_ofNat, BitVec.toNat_ofNat]
  omega

theorem decodeImage_bytes {c : Coeffs} (hc : c.ranged) : decodeImage (imageOfBytes c.bytes) = c := by
  obtain ⟨h4, h5⟩ := hc
  exact (Coeffs.mk.injEq ..).mpr ⟨decU16LE_bytes c.t1, decS16LE_bytes c.t2, decS16LE_bytes c.t3,
    decU16LE_bytes c.p1, decS16LE_bytes c.p2, decS16LE_bytes c.p3, decS16LE_bytes c.p4, decS16LE_bytes c.p5,
    decS16LE_bytes c.p6, decS16LE_bytes c.p7, decS16LE_bytes c.p8, decS16LE_bytes c.p9, decU8_bytes c.h1,
    decS16LE_bytes c.h2, decU8_bytes c.h3, decH4_bytes h4, decH5_bytes h5, decS8_bytes c.h6⟩

/-- Settles O25: `Coeffs.bytes` is an image of the file, and every decoded file is in the ranges. -/
theorem everyCalibrationHasAnImage : Obligations.EveryCalibrationHasAnImage := by
  refine fun c => ⟨fun hc => ⟨imageOfBytes c.bytes, decodeImage_bytes hc⟩, ?_⟩
  rintro ⟨img, rfl⟩
  exact decodeImage_ranged img

end Sys2Proof.Machine
end

section
/-! Proofs of the statements about `READCOMP` (R162, R169, R208), about the stops (R20, R209). The
idea: `READCOMP` is its microprogram, of which only the burst, the
coefficient file and the denominator decide the course. -/

namespace Sys2Proof.Machine

/-! ### `READCOMP` forwards (R162) -/

theorem exec_readcomp_of_admitted {s : State} (hss : s.ss ≠ .uninitialized) :
    exec .readcomp s = runMicro 6 (s.accept .readcomp) := by
  simp [exec, execReadcomp, hss]

theorem exec_readcomp_of_fail {s : State} (hss : s.ss ≠ .uninitialized) (hb : s.nextBurst = .fail) :
    exec .readcomp s = .next (abortCycle .ioFailure (s.takeBurst false)) := by
  have hburstrd : andThen (exec .burstrd (s.accept .readcomp)) (sequencer .burstrd) =
      .next (abortCycle .ioFailure (s.takeBurst false)) := by
    rw [exec_burstrd_of_fail (s := s.accept .readcomp) hb]
    rfl
  rw [exec_readcomp_of_admitted hss, runMicro_of_next rfl rfl hburstrd, runMicro_idle rfl]

/-- R162: `READCOMP` after `BURSTRD`. -/
def State.afterBurstrd (s : State) (b : Burst) : State :=
  { s.takeBurst true with
    burst := some b, result := some .ok, ss := .readRaw, active := some ⟨.readcomp, 1⟩ }

/-- R162: `READCOMP` after `RAWDEC`. -/
def State.afterRawdec (s : State) (b : Burst) : State :=
  { s.afterBurstrd b with
    rawP := some (burstP b), rawT := some (burstT b), rawH := some (burstH b)
    ss := .compensate, active := some ⟨.readcomp, 2⟩ }

/-- R162: `READCOMP` after `COMPT`. -/
def State.afterCompt (s : State) (b : Burst) (c : Coeffs) : State :=
  { s.afterRawdec b with
    tFine := some (cycleT b c).2, tc := some (cycleT b c).1, active := some ⟨.readcomp, 3⟩ }

/-- R162: `READCOMP` after a `COMPP` that gives a pressure. -/
def State.afterCompp (s : State) (b : Burst) (c : Coeffs) (p : Word) : State :=
  { s.afterCompt b c with pp := some (.pascals p), active := some ⟨.readcomp, 4⟩ }

/-- R162: `READCOMP` after `COMPH`. -/
def State.afterComph (s : State) (b : Burst) (c : Coeffs) (p : Word) : State :=
  { s.afterCompp b c p with hh := some (cycleH b c), active := some ⟨.readcomp, 5⟩ }

theorem exec_readcomp_of_burst {s : State} {b : Burst} (hss : s.ss ≠ .uninitialized) (hb : s.nextBurst = .ok b) :
    exec .readcomp s = runMicro 4 (s.afterRawdec b) := by
  have hburstrd : andThen (exec .burstrd (s.accept .readcomp)) (sequencer .burstrd) = .next (s.afterBurstrd b) := by
    rw [exec_burstrd_of_ok (s := s.accept .readcomp) hb]
    rfl
  have hrawdec : andThen (exec .rawdec (s.afterBurstrd b)) (sequencer .rawdec) = .next (s.afterRawdec b) := by
    rw [exec_rawdec_of_burst (s := s.afterBurstrd b) rfl]
    rfl
  rw [exec_readcomp_of_admitted hss, runMicro_of_next rfl rfl hburstrd, runMicro_of_next rfl rfl hrawdec]

/-- R162: the cycle up to `COMPP`, with the coefficients held. -/
theorem exec_readcomp_of_coeffs {s : State} {b : Burst} {c : Coeffs} (hss : s.ss ≠ .uninitialized)
    (hb : s.nextBurst = .ok b) (hc : s.coeffs = some c) :
    exec .readcomp s = runMicro 3 (s.afterCompt b c) ∧
      exec .compp (s.afterCompt b c) = .next { s.afterCompt b c with pp := some (cycleP b c) } := by
  have hcompt : andThen (exec .compt (s.afterRawdec b)) (sequencer .compt) = .next (s.afterCompt b c) := by
    rw [exec_compt_of_operands (s := s.afterRawdec b) rfl hc]
    rfl
  refine ⟨?_, exec_compp_of_operands rfl rfl hc⟩
  rw [exec_readcomp_of_burst hss hb, runMicro_of_next rfl rfl hcompt]

theorem exec_readcomp_of_unavailable {s : State} {b : Burst} {c : Coeffs} (hss : s.ss ≠ .uninitialized)
    (hb : s.nextBurst = .ok b) (hc : s.coeffs = some c) (hp : cycleP b c = .unavailable) :
    exec .readcomp s = .next (abortCycle .unavailable (s.afterCompt b c)) := by
  obtain ⟨hcycle, hcompp⟩ := exec_readcomp_of_coeffs hss hb hc
  have hend : andThen (exec .compp (s.afterCompt b c)) (sequencer .compp) =
      .next (abortCycle .unavailable (s.afterCompt b c)) := by
    rw [hcompp, hp]
    rfl
  rw [hcycle, runMicro_of_next rfl rfl hend, runMicro_idle rfl]

theorem exec_readcomp_of_pascals {s : State} {b : Burst} {c : Coeffs} {p : Word} (hss : s.ss ≠ .uninitialized)
    (hb : s.nextBurst = .ok b) (hc : s.coeffs = some c) (hp : cycleP b c = .pascals p) :
    exec .readcomp s = .next (completeCycle { s.afterComph b c p with
      tempCenti := some (cycleT b c).1, pressPa := some p, humQ10 := some (cycleH b c), rdValid := true }) := by
  obtain ⟨hcycle, hcompp⟩ := exec_readcomp_of_coeffs hss hb hc
  have hcompp' : andThen (exec .compp (s.afterCompt b c)) (sequencer .compp) = .next (s.afterCompp b c p) := by
    rw [hcompp, hp]
    rfl
  have hcomph : andThen (exec .comph (s.afterCompp b c p)) (sequencer .comph) = .next (s.afterComph b c p) := by
    rw [exec_comph_of_operands (s := s.afterCompp b c p) rfl rfl hc]
    rfl
  have hpublish : andThen (exec .publish (s.afterComph b c p)) (sequencer .publish) =
      .next (completeCycle { s.afterComph b c p with
        tempCenti := some (cycleT b c).1, pressPa := some p, humQ10 := some (cycleH b c), rdValid := true }) := by
    rw [publishWritesTheReading (s.afterComph b c p) _ p _ rfl rfl rfl]
    rfl
  rw [hcycle, runMicro_of_next rfl rfl hcompp', runMicro_of_next rfl rfl hcomph, runMicro_of_next rfl rfl hpublish,
    runMicro_idle rfl]

/-- Settles O41: the four courses, each with the registers its last state holds. -/
theorem readcompFollowsItsRule : Obligations.ReadcompFollowsItsRule := by
  refine fun s => ⟨fun hss => ?_, fun hss hb => ?_, fun hss b c hb hc => ⟨fun hp => ?_, fun p hp => ?_⟩⟩
  · simp [exec, execReadcomp, hss, State.raise, State.record]
  · rw [exec_readcomp_of_fail hss hb]
    rfl
  · rw [exec_readcomp_of_unavailable hss hb hc hp]
    rfl
  · rw [exec_readcomp_of_pascals hss hb hc hp]
    rfl

/-! ### What a cycle publishes (R169, R208) -/

/-- Settles O46: the burst and the file decide the course of both cycles. -/
theorem sameBurstGivesTheSameReading : Obligations.SameBurstGivesTheSameReading := by
  intro s s' t t' b hcoeffs hss hss' hb hb' h h'
  rcases execReadcomp_cases h with ⟨hun, -⟩ | ⟨-, ⟨hfail, -⟩ | ⟨b₁, c, hb₁, hc, hcourse⟩⟩
  · exact absurd hun hss
  · simp [hb] at hfail
  obtain rfl : b₁ = b := by simpa [hb] using hb₁.symm
  have hc' : s'.coeffs = some c := hcoeffs ▸ hc
  rcases hcourse with ⟨hp, rfl⟩ | ⟨p, hp, rfl⟩
  · rw [exec_readcomp_of_unavailable hss' hb' hc' hp] at h'
    cases h'
    exact ⟨rfl, rfl, rfl, rfl, rfl, fun hok => by simp [abortCycle] at hok, fun _ => ⟨rfl, rfl, rfl⟩⟩
  · rw [exec_readcomp_of_pascals hss' hb' hc' hp] at h'
    cases h'
    exact ⟨rfl, rfl, rfl, rfl, rfl, fun _ => ⟨rfl, rfl, rfl⟩, fun hne => absurd rfl hne⟩

/-- R162, R181: a cycle that does not end `OK` leaves the published reading. -/
theorem exec_readcomp_keeps_reading {s t : State} {c : Cause} (h : exec .readcomp s = .next t)
    (hlast : t.lastStatus = .ended c) :
    t.rdValid = s.rdValid ∧ t.tempCenti = s.tempCenti ∧ t.pressPa = s.pressPa ∧ t.humQ10 = s.humQ10 := by
  rcases execReadcomp_cases h with ⟨-, rfl⟩ | ⟨-, ⟨-, rfl⟩ | ⟨b, c, -, -, ⟨-, rfl⟩ | ⟨p, -, rfl⟩⟩⟩
  case inr.inr.inr => simp [completeCycle] at hlast
  all_goals exact ⟨rfl, rfl, rfl, rfl⟩

/-- Settles O47: the reading is left, and the accessors answer it. -/
theorem failedCycleLeavesTheReading : Obligations.FailedCycleLeavesTheReading := by
  intro s t c d p h hrd hd hp hh hcycle hlast
  obtain ⟨hrd', hd', hp', hh'⟩ := exec_readcomp_keeps_reading hcycle hlast
  obtain ⟨-, -, haccess⟩ := accessorsAnswerOrRefuse
  obtain ⟨hanswer, -⟩ := haccess t
  obtain ⟨hgett, hgetp, hgeth⟩ := hanswer (hrd'.trans hrd)
  exact ⟨hgett d (hd'.trans hd), hgetp p (hp'.trans hp), hgeth h (hh'.trans hh)⟩

/-! ### The stops (R20, R209, U8) -/

/-- Settles O52: the reads are cut at the silent one, and the commands stop where their first
micro-operation does. -/
theorem unansweredReadHasNoNextState : Obligations.UnansweredReadHasNoNextState := by
  refine fun s => ⟨fun img n hn h hsilent => ⟨?_, fun hcal => ?_⟩, fun hsilent => ⟨?_, fun hss => ?_⟩⟩
  · rw [exec_calfetch, calFetch_silent_at hn h hsilent]
  · have hstop : exec .calfetch (s.accept .loadcal) = .fault .unansweredRead := by
      rw [exec_calfetch, calFetch_silent_at (s := s.accept .loadcal) hn h hsilent]
    rw [exec_loadcal_of_not_calValid hcal, runMicro_stop rfl rfl hstop]
  · exact exec_burstrd_of_silent hsilent
  · rw [exec_readcomp_of_admitted hss, runMicro_stop rfl rfl (exec_burstrd_of_silent (s := s.accept .readcomp) hsilent)]

theorem accessor_of_no_value {r : DataReg} {s : State} (hvalid : s.rdValid = true) :
    accessor r none s = .fault (.readOfNoValue r) := by
  rw [accessor, if_pos hvalid, readReg_none]

/-- R20: an operand that is held lets the operation go on to its next operand. -/
theorem readReg_of_ne_none {α : Type} {r : DataReg} {v : Option α} {f : α → Out} {o : Out} (h : v ≠ none)
    (hf : ∀ a, f a = o) : readReg r v f = o := by
  obtain ⟨a, rfl⟩ := Option.ne_none_iff_exists'.mp h
  exact hf a

/-- R20: an operand that is not held stops the operation. -/
theorem readReg_of_eq_none {α : Type} {r : DataReg} {v : Option α} {f : α → Out} (h : v = none) :
    readReg r v f = .fault (.readOfNoValue r) := by
  rw [h, readReg_none]

theorem exec_compt_of_no_coeffs {s : State} (hraw : s.rawT ≠ none) (hc : s.coeffs = none) :
    exec .compt s = .fault (.readOfNoValue .coefficients) :=
  readReg_of_ne_none hraw fun _ => readReg_of_eq_none hc

/-- R162, U5: an admitted cycle without coefficients stops at `COMPT`. -/
theorem exec_readcomp_of_no_coeffs {s : State} {b : Burst} (hss : s.ss ≠ .uninitialized) (hb : s.nextBurst = .ok b)
    (hc : s.coeffs = none) : exec .readcomp s = .fault (.readOfNoValue .coefficients) := by
  have hcompt : exec .compt (s.afterRawdec b) = .fault (.readOfNoValue .coefficients) :=
    exec_compt_of_no_coeffs (by simp [State.afterRawdec]) hc
  rw [exec_readcomp_of_burst hss hb, runMicro_stop rfl rfl hcompt]

/-- Settles O53: each operation reads its operands in the order of its definition. -/
theorem missingOperandStopsByName : Obligations.MissingOperandStopsByName := by
  refine fun s => ⟨fun hvalid => ⟨fun h => ?_, fun h => ?_, fun h => ?_⟩, fun h => ?_,
    readReg_of_eq_none, readReg_of_eq_none, readReg_of_eq_none,
    exec_compt_of_no_coeffs,
    readReg_of_eq_none,
    fun hp ht => readReg_of_ne_none hp fun _ => readReg_of_eq_none ht,
    fun hp ht hc => readReg_of_ne_none hp fun _ => readReg_of_ne_none ht fun _ => readReg_of_eq_none hc,
    readReg_of_eq_none,
    fun hh ht => readReg_of_ne_none hh fun _ => readReg_of_eq_none ht,
    fun hh ht hc => readReg_of_ne_none hh fun _ => readReg_of_ne_none ht fun _ => readReg_of_eq_none hc,
    readReg_of_eq_none,
    fun htc hpp => readReg_of_ne_none htc fun _ => readReg_of_eq_none (State.heldPressure_eq_none.mpr hpp),
    fun htc ⟨p, hpp⟩ hhh => ?_, fun _ => exec_readcomp_of_no_coeffs, fun _ => step_of_lost⟩
  · rw [exec, execGett, h, accessor_of_no_value hvalid]
  · rw [exec, execGetp, h, accessor_of_no_value hvalid]
  · rw [exec, execGeth, h, accessor_of_no_value hvalid]
  · exact readReg_of_eq_none (if_neg (Bool.eq_false_iff.mp h))
  · have hpressure : s.heldPressure ≠ none := by simp [State.heldPressure_eq_some.mpr hpp]
    exact readReg_of_ne_none htc fun _ => readReg_of_ne_none hpressure fun _ => readReg_of_eq_none hhh

end Sys2Proof.Machine
end

section
/-! Proofs of the statements about every operation and about the sequencer (10_state.md, R92, R112,
R161). The idea: the lemmas that invert an operation list its possible next states, each a record
update of the state before; so what is written, and where the sequencer goes on, is read off each of them. -/

namespace Sys2Proof.Machine

/-! ### The writers of the registers -/

/-- The clauses of `RegistersHaveTheirWriters` for one operation and its next state. -/
def WritesOnlyItsOwn (i : Instr) (s t : State) : Prop :=
  (i ≠ .calcommit → i ≠ .loadcal → t.coeffs = s.coeffs ∧ t.calValid = s.calValid) ∧
  (i ≠ .calfetch → i ≠ .loadcal → t.calbuf = s.calbuf ∧ t.reads = s.reads) ∧
  (i ≠ .burstrd → i ≠ .readcomp → t.burst = s.burst ∧ t.bursts = s.bursts) ∧
  (i ≠ .rawdec → i ≠ .readcomp → t.rawP = s.rawP ∧ t.rawT = s.rawT ∧ t.rawH = s.rawH) ∧
  (i ≠ .compt → i ≠ .readcomp → t.tFine = s.tFine) ∧
  (i ≠ .publish → i ≠ .readcomp →
    t.tempCenti = s.tempCenti ∧ t.pressPa = s.pressPa ∧ t.humQ10 = s.humQ10 ∧ t.rdValid = s.rdValid) ∧
  (i ≠ .loadcal → i ≠ .readcomp → t.ss = s.ss) ∧
  (i.isUop = true → t.lastStatus = s.lastStatus ∧ t.ioFail = s.ioFail ∧ t.refused = s.refused ∧
    t.pUnavail = s.pUnavail ∧ t.responses = s.responses ∧ t.active = s.active) ∧
  t.port = s.port

theorem exec_uop_writesOnlyItsOwn {i : Instr} {s t : State} (hi : i.isUop = true) (h : exec i s = .next t) :
    WritesOnlyItsOwn i s t := by
  rcases exec_uop_cases hi h with ⟨rfl, _, _, _, _, _, rfl⟩ | ⟨rfl, _, _, rfl⟩ | ⟨rfl, _, _, rfl⟩ |
    ⟨rfl, _, _, _, _, rfl⟩ | ⟨rfl, _, _, rfl⟩ | ⟨rfl, _, _, rfl⟩ | ⟨rfl, _, rfl⟩ | ⟨rfl, _, rfl⟩ |
    ⟨rfl, _, _, _, _, _, _, rfl⟩
  all_goals simp [WritesOnlyItsOwn]

theorem accessor_writesOnlyItsOwn {i : Instr} {r : DataReg} {v : Option Word} {s t : State} (hi : i.isUop = false)
    (h : accessor r v s = .next t) : WritesOnlyItsOwn i s t := by
  rcases accessor_cases h with ⟨-, d, -, rfl⟩ | ⟨-, rfl⟩
  all_goals simp [WritesOnlyItsOwn, hi]

theorem exec_host_writesOnlyItsOwn {i : Instr} {s t : State} (hi : i.isHost = true) (h : exec i s = .next t) :
    WritesOnlyItsOwn i s t := by
  cases i <;> simp only [Instr.isHost, Bool.false_eq_true] at hi
  case loadcal =>
    rcases execLoadcal_cases h with ⟨-, rfl⟩ | ⟨-, m, rd, dr, l, -, -, ⟨c, -, -, rfl⟩ | ⟨-, rfl⟩⟩
    all_goals simp [WritesOnlyItsOwn, Instr.isUop, completeLoad, abortLoad]
  case readcomp =>
    rcases execReadcomp_cases h with ⟨-, rfl⟩ | ⟨-, ⟨-, rfl⟩ | ⟨b, c, -, -, ⟨-, rfl⟩ | ⟨p, -, rfl⟩⟩⟩
    all_goals simp [WritesOnlyItsOwn, Instr.isUop, completeCycle, abortCycle]
  case gett => exact accessor_writesOnlyItsOwn rfl h
  case getp => exact accessor_writesOnlyItsOwn rfl h
  case geth => exact accessor_writesOnlyItsOwn rfl h
  case getstat =>
    cases h
    simp [WritesOnlyItsOwn, Instr.isUop]

/-- Settles O54: host commands and micro-operations, by their inversion lemmas. -/
theorem registersHaveTheirWriters : Obligations.RegistersHaveTheirWriters := by
  intro i s t h
  cases hhost : i.isHost with
  | true => exact exec_host_writesOnlyItsOwn hhost h
  | false => exact exec_uop_writesOnlyItsOwn (by simp [isUop_eq_not_isHost, hhost]) h

theorem exec_port {i : Instr} {s t : State} (h : exec i s = .next t) : t.port = s.port := by
  obtain ⟨-, -, -, -, -, -, -, -, hport⟩ := registersHaveTheirWriters i s t h
  exact hport

theorem exec_uop_active {i : Instr} {s t : State} (hi : i.isUop = true) (h : exec i s = .next t) :
    t.active = s.active := by
  obtain ⟨-, -, -, -, -, -, -, huop, -⟩ := registersHaveTheirWriters i s t h
  obtain ⟨-, -, -, -, -, hactive⟩ := huop hi
  exact hactive

theorem exec_uop_ss {i : Instr} {s t : State} (hi : i.isUop = true) (h : exec i s = .next t) : t.ss = s.ss := by
  obtain ⟨-, -, -, -, -, -, hss, -, -⟩ := registersHaveTheirWriters i s t h
  exact hss (by rintro rfl; cases hi) (by rintro rfl; cases hi)

/-! ### The coefficient file (R112) -/

/-- R112: in a state of the invariant a micro-operation of a `LOADCAL` comes before the load. -/
theorem State.Inv.cmd_of_calValid {s : State} {a : Active} (h : s.Inv) (hactive : s.active = some a)
    (hcal : s.calValid = true) : a.cmd = .readcomp := by
  obtain ⟨cmd, upc⟩ := a
  cases cmd with
  | loadcal =>
    obtain ⟨hcal', -⟩ := (State.placed_of_load hactive).mp h.inPlace
    simp [hcal] at hcal'
  | readcomp => rfl

theorem sequencer_coeffs {i : Instr} {s t : State} (h : sequencer i s = .next t) :
    t.coeffs = s.coeffs ∧ t.calValid = s.calValid := by
  rcases sequencer_cases h with ⟨rfl, -⟩ | ⟨rfl, -⟩ | ⟨rfl, -⟩ | ⟨rfl, -⟩ | ⟨rfl, -⟩ | ⟨rfl, -⟩ | ⟨rfl, -⟩
  all_goals exact ⟨rfl, rfl⟩

/-- R100, R112: no host command writes a file that is loaded. -/
theorem exec_host_keeps_coeffs {i : Instr} {s t : State} (hi : i.isHost = true) (hcal : s.calValid = true)
    (h : exec i s = .next t) : t.coeffs = s.coeffs ∧ t.calValid = s.calValid := by
  by_cases hload : i = .loadcal
  · subst hload
    rcases execLoadcal_cases h with ⟨-, rfl⟩ | ⟨hcal', -⟩
    · exact ⟨rfl, rfl⟩
    · simp [hcal] at hcal'
  · obtain ⟨hwriter, -⟩ := registersHaveTheirWriters i s t h
    exact hwriter (by rintro rfl; cases hi) hload

/-- Settles O56: the step of a loaded block is no `CALCOMMIT` and no admitted `LOADCAL`. -/
theorem coefficientsAreImmutable : Obligations.CoefficientsAreImmutable := by
  intro s t hinv hcal hreset h
  suffices hkeep : t.coeffs = s.coeffs ∧ t.calValid = s.calValid by rwa [hcal] at hkeep
  rcases step_cases h with ⟨rest, hp, -⟩ | ⟨a, i, ha, hi, h⟩ | ⟨b, rest, i, -, -, hd, h⟩ | ⟨b, rest, -, -, -, rfl⟩ |
    ⟨-, -, rfl⟩
  · exact absurd hp (hreset rest)
  · obtain ⟨u, hu, ht⟩ := andThen_eq_next h
    obtain ⟨hco, hcv⟩ := sequencer_coeffs ht
    obtain ⟨hwriter, -⟩ := registersHaveTheirWriters i s u hu
    have hcmd := hinv.cmd_of_calValid ha hcal
    have hplace := uopPlace_of_uopAt hi
    have hcommit : i ≠ .calcommit := by rintro rfl; cases hplace; cases hcmd
    have hload : i ≠ .loadcal := by rintro rfl; cases hplace
    obtain ⟨hco', hcv'⟩ := hwriter hcommit hload
    exact ⟨hco.trans hco', hcv.trans hcv'⟩
  · obtain ⟨-, hhost⟩ := decodeHost_eq_some hd
    exact exec_host_keeps_coeffs (s := { s with port := rest }) hhost hcal h
  · exact ⟨rfl, rfl⟩
  · exact ⟨rfl, rfl⟩

/-! ### The sequencer (R22, R92) -/

/-- Settles O18: where the micro-operation stands in its microprogram tells what the sequencer can do. -/
theorem microprogramAdvancesOrEnds : Obligations.MicroprogramAdvancesOrEnds := by
  refine ⟨rfl, rfl, fun c s => rfl, fun s t a i hactive hi h => ?_⟩
  obtain ⟨u, hu, ht⟩ := andThen_eq_next h
  have huop := uopAt_isUop hi
  have hplace := uopPlace_of_uopAt hi
  have hactive' : u.active = some a := (exec_uop_active huop hu).trans hactive
  have hresponses : u.responses = s.responses := (exec_uop_sameRecord huop hu).responses
  rcases sequencer_cases ht with ⟨rfl, hgo⟩ | ⟨rfl, rfl⟩ | ⟨rfl, rfl⟩ | ⟨rfl, rfl⟩ | ⟨rfl, rfl, -⟩ | ⟨rfl, rfl, -⟩ |
    ⟨rfl, rfl, -⟩
  · refine .inl ⟨by simp [hactive'], by simp [hresponses], ?_⟩
    rcases hgo with ⟨rfl, -⟩ | rfl | ⟨rfl, -⟩ | rfl | ⟨rfl, -⟩ | rfl
    all_goals
      cases hplace
      rfl
  · cases hplace
    exact .inl ⟨by simp [hactive'], by simp [hresponses], rfl⟩
  · cases hplace
    exact .inr ⟨rfl, .inl ⟨by simp [completeLoad, hresponses], rfl⟩⟩
  · cases hplace
    exact .inr ⟨rfl, .inl ⟨by simp [completeCycle, hresponses], rfl⟩⟩
  · exact .inr ⟨rfl, .inr (.inl ⟨by simp [abortLoad, hresponses], .inl rfl⟩)⟩
  · exact .inr ⟨rfl, .inr (.inl ⟨by simp [abortCycle, hresponses], .inr rfl⟩)⟩
  · exact .inr ⟨rfl, .inr (.inr ⟨by simp [abortCycle, hresponses], rfl⟩)⟩

theorem sequencer_port {i : Instr} {s t : State} (h : sequencer i s = .next t) : t.port = s.port := by
  rcases sequencer_cases h with ⟨rfl, -⟩ | ⟨rfl, -⟩ | ⟨rfl, -⟩ | ⟨rfl, -⟩ | ⟨rfl, -⟩ | ⟨rfl, -⟩ | ⟨rfl, -⟩
  all_goals rfl

/-- Two continuations that agree on the next state of the first part, if there is one. -/
theorem andThen_congr {o : Out} {f g : State → Out} (h : ∀ t, o = .next t → f t = g t) : andThen o f = andThen o g := by
  cases o with
  | next t => exact h t rfl
  | fault r => rfl
  | refused r => rfl

/-- R22, R160: with nothing at the port, stepping the machine is running the sequencer. -/
theorem steps_eq_runMicro {n : Nat} {s : State} (hport : s.port = []) : steps n s = runMicro n s := by
  induction n generalizing s with
  | zero => rfl
  | succ n ih =>
    have hreset : ∀ rest, s.port ≠ .reset :: rest := by simp [hport]
    rw [steps]
    cases hactive : s.active with
    | none => rw [idleBlockWaits s hactive hport, andThen_next, ih hport, runMicro_idle hactive, runMicro_idle hactive]
    | some a =>
      cases hi : uopAt a with
      | none => simp only [step_of_lost hactive hi hreset, runMicro, hactive, hi, andThen_fault]
      | some i =>
        have huop := uopAt_isUop hi
        rw [stepRunsTheMicroOperationAtUpc s a i hactive hi hreset, runMicro_step hactive hi, ← exec_eq_uopMeaning huop]
        refine andThen_congr fun t ht => ih ?_
        obtain ⟨u, hu, ht⟩ := andThen_eq_next ht
        rw [sequencer_port ht, exec_port hu, hport]

/-- Settles O19: an admitted command is defined as the run of its microprogram. -/
theorem steppingTheMicroprogramIsTheCommand : Obligations.SteppingTheMicroprogramIsTheCommand := by
  refine fun s hport => ⟨fun hcal => ?_, fun hss => ?_⟩
  · rw [exec_loadcal_of_not_calValid hcal, steps_eq_runMicro (s := s.accept .loadcal) hport]
  · rw [exec_readcomp_of_admitted hss, steps_eq_runMicro (s := s.accept .readcomp) hport]

/-! ### The session states (R161) -/

/-- R91: the sequencer goes on only after a micro-operation. -/
theorem isUop_of_sequencer {i : Instr} {s t : State} (h : sequencer i s = .next t) : i.isUop = true := by
  cases i
  case loadcal | readcomp | gett | getp | geth | getstat => simp [sequencer] at h
  all_goals rfl

/-- R161, inside `READCOMP`: what the sequencer does to `SS` after each micro-operation. -/
theorem uop_ss {s t : State} {i : Instr} (h : andThen (exec i s) (sequencer i) = .next t) :
    (i = .burstrd → t.ss = s.ss ∧ t.responses = s.responses ∨
      t.ss = .ready ∧ t.responses = .ended .ioFailure :: s.responses) ∧
    (i = .rawdec → t.ss = .compensate) ∧
    (i = .compp → t.ss = s.ss ∧ t.responses = s.responses ∨
      t.ss = .ready ∧ t.responses = .ended .unavailable :: s.responses) ∧
    (i = .publish → t.ss = .ready ∧ t.responses = .ok 0#32 :: s.responses) ∧
    (i = .compt ∨ i = .comph → t.ss = s.ss) := by
  obtain ⟨u, hu, ht⟩ := andThen_eq_next h
  have huop : i.isUop = true := isUop_of_sequencer ht
  have hss : u.ss = s.ss := exec_uop_ss huop hu
  have hresponses : u.responses = s.responses := (exec_uop_sameRecord huop hu).responses
  rcases sequencer_cases ht with ⟨rfl, hgo⟩ | ⟨rfl, rfl⟩ | ⟨rfl, rfl⟩ | ⟨rfl, rfl⟩ | ⟨rfl, rfl, -⟩ | ⟨rfl, rfl, -⟩ |
    ⟨rfl, rfl, -⟩
  case inl =>
    rcases hgo with ⟨rfl, -⟩ | rfl | ⟨rfl, -⟩ | rfl | ⟨rfl, -⟩ | rfl
    all_goals simp [hss, hresponses]
  all_goals simp [completeCycle, abortCycle, hresponses]

/-- Settles O45: the endings of the two commands, the frame of the others, and the sequencer's writes. -/
theorem sessionStateFollowsTheTable : Obligations.SessionStateFollowsTheTable := by
  refine ⟨fun s t hactive hinv => ⟨fun h hss => ?_, fun h hss => ?_, fun h hss => ?_, fun h hss => ?_, fun i hi h => ?_⟩,
    fun s => ⟨rfl, State.raise_ss s .illegalCmd, rfl⟩, fun s t i => uop_ss⟩
  all_goals obtain ⟨-, -, hsession⟩ := (State.placed_of_idle hactive).mp hinv.inPlace
  · rcases execLoadcal_cases h with ⟨hcal, rfl⟩ | ⟨-, m, rd, dr, l, -, -, ⟨c, -, -, rfl⟩ | ⟨-, rfl⟩⟩
    · simp [hss, hcal] at hsession
    · simp [completeLoad]
    · simp [abortLoad, hss]
  · rcases execLoadcal_cases h with ⟨-, rfl⟩ | ⟨hcal, -⟩
    · simp [hss]
    · simp [hss, hcal] at hsession
  · rcases execReadcomp_cases h with ⟨-, rfl⟩ | ⟨hne, -⟩
    · simp [hss]
    · exact absurd hss hne
  · rcases execReadcomp_cases h with ⟨hun, -⟩ | ⟨-, ⟨-, rfl⟩ | ⟨b, c, -, -, ⟨-, rfl⟩ | ⟨p, -, rfl⟩⟩⟩
    · simp [hss] at hun
    · simp [abortCycle]
    · simp [abortCycle]
    · simp [completeCycle]
  · obtain ⟨-, -, -, -, -, -, hframe, -, -⟩ := registersHaveTheirWriters i s t h
    rcases hi with rfl | rfl | rfl | rfl
    all_goals exact hframe (by simp) (by simp)

end Sys2Proof.Machine
end

section
/-! Proofs of the statements about responses, endings and bus traffic (R89, R160, R180, R189). The idea: a
command that answers has answered as one of the cases of its inversion lemma, which names the cause, the
condition and the transactions; that the flags go with the cause is said once for every answer
(`exec_host_answers`). -/

namespace Sys2Proof.Machine

/-! ### The response format (R89) -/

theorem Resp.encode_status (r : Resp) :
    (Resp.encode r).extractLsb' 32 4 = match r with
      | .ok _ => 0#4
      | .ended c => c.code := by
  cases r with
  | ok d =>
    simp (disch := decide) only [Resp.encode, BitVec.extractLsb'_append_eq_of_le]
    exact BitVec.extractLsb'_eq_self
  | ended c =>
    simp (disch := decide) only [Resp.encode, BitVec.extractLsb'_append_eq_of_le]
    exact BitVec.extractLsb'_eq_self

theorem Resp.encode_data (r : Resp) :
    (Resp.encode r).extractLsb' 0 32 = match r with
      | .ok d => d
      | .ended _ => 0#32 := by
  cases r with
  | ok d => exact BitVec.extractLsb'_append_eq_right
  | ended c => exact BitVec.extractLsb'_append_eq_right

theorem Cause.code_le (c : Cause) : c.code ≤ 6#4 := by cases c <;> decide

/-! ### One response for each command (R160) -/

theorem State.Answers.exists_response {who : Option Instr} {s t : State} (h : State.Answers who s t) :
    ∃ r, t.responses = r :: s.responses := by
  cases h with
  | view d _ h => exact ⟨_, h.responses⟩
  | ok d _ _ h => exact ⟨_, h.responses⟩
  | published d _ h => exact ⟨_, h.responses⟩
  | ended c _ _ h => exact ⟨.ended c, by simp [h.responses]⟩

/-- R100, R162: the two commands with a microprogram answer no data. -/
theorem sequenced_response {i : Instr} {s t : State} {r : Resp} (hi : i = .loadcal ∨ i = .readcomp)
    (h : exec i s = .next t) (hr : t.responses = r :: s.responses) : r = .ok 0#32 ∨ ∃ c, r = .ended c := by
  rcases hi with rfl | rfl
  · rcases execLoadcal_cases h with ⟨-, rfl⟩ | ⟨-, m, rd, dr, l, -, -, ⟨c, -, -, rfl⟩ | ⟨-, rfl⟩⟩
    all_goals simp [completeLoad, abortLoad] at hr
    all_goals simp [← hr]
  · rcases execReadcomp_cases h with ⟨-, rfl⟩ | ⟨-, ⟨-, rfl⟩ | ⟨b, c, -, -, ⟨-, rfl⟩ | ⟨p, -, rfl⟩⟩⟩
    all_goals simp [completeCycle, abortCycle] at hr
    all_goals simp [← hr]

/-- Settles O11: the two fields of the format, and the one answer of `exec_host_answers`. -/
theorem everyCommandGivesOneResponse : Obligations.EveryCommandGivesOneResponse := by
  refine ⟨fun r => ⟨?_, ?_, ?_⟩, rfl, fun i s t hi h => ?_⟩
  · rintro d rfl
    exact ⟨Resp.encode_status _, Resp.encode_data _⟩
  · rintro c rfl
    exact ⟨Resp.encode_status _, Resp.encode_data _⟩
  · rw [Resp.encode_status]
    cases r with
    | ok d => exact (by decide : (0#4 ≤ 6#4))
    | ended c => exact c.code_le
  · obtain ⟨r, hr⟩ := (exec_host_answers hi h).exists_response
    exact ⟨r, hr, fun hseq => sequenced_response hseq h hr⟩

/-! ### The non-OK endings (R180) -/

/-- R180, columns "Raised by" and "Condition": the row of an ending. -/
def EndingRow (i : Instr) (s : State) : Cause → Prop
  | .unavailable => i = .readcomp
  | .ioFailure => i = .loadcal ∨ i = .readcomp
  | .notReady => i = .readcomp ∧ s.ss = .uninitialized
  | .alreadyLoaded => i = .loadcal ∧ s.calValid = true
  | .noReading => (i = .gett ∨ i = .getp ∨ i = .geth) ∧ s.rdValid = false
  | .illegalCmd => False

theorem accessor_endingRow {i : Instr} {r : DataReg} {v : Option Word} {s t : State} {c : Cause}
    (hi : i = .gett ∨ i = .getp ∨ i = .geth) (h : accessor r v s = .next t)
    (hr : t.responses = .ended c :: s.responses) : EndingRow i s c := by
  rcases accessor_cases h with ⟨-, d, -, rfl⟩ | ⟨hinvalid, rfl⟩
  · simp at hr
  · obtain rfl : Cause.noReading = c := by simpa using hr
    exact ⟨hi, hinvalid⟩

theorem exec_host_endingRow {i : Instr} {s t : State} {c : Cause} (hi : i.isHost = true) (h : exec i s = .next t)
    (hr : t.responses = .ended c :: s.responses) : EndingRow i s c := by
  cases i <;> simp only [Instr.isHost, Bool.false_eq_true] at hi
  case loadcal =>
    rcases execLoadcal_cases h with ⟨hcal, rfl⟩ | ⟨-, m, rd, dr, l, -, -, ⟨_, -, -, rfl⟩ | ⟨-, rfl⟩⟩
    · obtain rfl : Cause.alreadyLoaded = c := by simpa using hr
      exact ⟨rfl, hcal⟩
    · simp [completeLoad] at hr
    · obtain rfl : Cause.ioFailure = c := by simpa [abortLoad] using hr
      exact .inl rfl
  case readcomp =>
    rcases execReadcomp_cases h with ⟨hss, rfl⟩ | ⟨-, ⟨-, rfl⟩ | ⟨_, _, -, -, ⟨-, rfl⟩ | ⟨_, -, rfl⟩⟩⟩
    · obtain rfl : Cause.notReady = c := by simpa using hr
      exact ⟨rfl, hss⟩
    · obtain rfl : Cause.ioFailure = c := by simpa [abortCycle] using hr
      exact .inr rfl
    · obtain rfl : Cause.unavailable = c := by simpa [abortCycle] using hr
      exact rfl
    · simp [completeCycle] at hr
  case gett => exact accessor_endingRow (.inl rfl) h hr
  case getp => exact accessor_endingRow (.inr (.inl rfl)) h hr
  case geth => exact accessor_endingRow (.inr (.inr rfl)) h hr
  case getstat =>
    cases h
    simp at hr

/-- R180, column "Recorded": an answer with a non-OK status has written what `State.raise` writes. -/
theorem State.Answers.sameRecord_raise {who : Option Instr} {s t : State} {c : Cause} (h : State.Answers who s t)
    (hr : t.responses = .ended c :: s.responses) : t.SameRecord (s.raise c) := by
  cases h with
  | view d _ h => simp [h.responses] at hr
  | ok d _ _ h => simp [h.responses] at hr
  | published d _ h => simp [h.responses] at hr
  | ended c' _ _ h =>
    obtain rfl : c' = c := by simpa [h.responses] using hr
    exact h

/-- A micro-operation gives no response, so what answers is a host command. -/
theorem isHost_of_response {i : Instr} {s t : State} {r : Resp} (h : exec i s = .next t)
    (hr : t.responses = r :: s.responses) : i.isHost = true := by
  by_contra hhost
  have hsame := exec_uop_sameRecord (by simpa [isUop_eq_not_isHost] using hhost) h
  simp [hsame.responses] at hr

/-- Settles O48: the row of the ending, and the record that `State.raise` leaves. -/
theorem nonOkEndingsRecordOneFlag : Obligations.NonOkEndingsRecordOneFlag := by
  refine ⟨fun i s t c h hr => ?_, fun s => ?_⟩
  · have hhost := isHost_of_response h hr
    have hrow := exec_host_endingRow hhost h hr
    obtain ⟨hpun, hio, href, hlast, -⟩ := (exec_host_answers hhost h).sameRecord_raise hr
    cases c <;> simp only [EndingRow] at hrow <;> simp [hrow, hpun, hio, href, hlast]
  · simp [illegalCommand]

/-! ### The bus traffic of each command (R68, R69, R120, R189) -/

theorem accessor_busLog {r : DataReg} {v : Option Word} {s t : State} (h : accessor r v s = .next t) :
    t.busLog = s.busLog := by
  rcases accessor_cases h with ⟨-, d, -, rfl⟩ | ⟨-, rfl⟩
  · exact State.succeed_busLog s d
  · exact State.raise_busLog s .noReading

/-- R120, R162: one burst, failed exactly if the cycle ends `IO_FAILURE`. -/
theorem exec_readcomp_busLog {s t : State} (h : exec .readcomp s = .next t) :
    (s.ss = .uninitialized → t.busLog = s.busLog) ∧
    (s.ss ≠ .uninitialized → ∃ ok : Bool, t.busLog = ⟨0x76#7, 0xF7#8, 8, ok⟩ :: s.busLog ∧
      (ok = false ↔ t.lastStatus = .ended .ioFailure)) := by
  rcases execReadcomp_cases h with ⟨hss, rfl⟩ | ⟨hss, hcourse⟩
  · exact ⟨fun _ => State.raise_busLog s .notReady, fun hne => absurd hss hne⟩
  refine ⟨fun hun => absurd hun hss, fun _ => ?_⟩
  rcases hcourse with ⟨-, rfl⟩ | ⟨b, c, -, -, ⟨-, rfl⟩ | ⟨p, -, rfl⟩⟩
  · exact ⟨false, rfl, by simp [abortCycle]⟩
  · exact ⟨true, rfl, by simp [abortCycle]⟩
  · exact ⟨true, rfl, by simp [completeCycle]⟩

/-- R69, R100: the reads of a `LOADCAL`. -/
theorem exec_loadcal_busLog {s t : State} (h : exec .loadcal s = .next t) :
    (s.calValid = true → t.busLog = s.busLog) ∧
    (s.calValid = false →
      t.lastStatus = .ok ∧
        t.busLog = (Config.calAddrs.map fun a => (⟨0x76#7, a, 1, true⟩ : Transaction)).reverse ++ s.busLog ∨
      t.lastStatus = .ended .ioFailure ∧ ∃ n, ∃ hn : n < Config.calAddrs.length,
        t.busLog = ⟨0x76#7, Config.calAddrs[n], 1, false⟩ ::
          ((Config.calAddrs.take n).map fun a => (⟨0x76#7, a, 1, true⟩ : Transaction)).reverse ++ s.busLog) := by
  rcases execLoadcal_cases h with ⟨hcal, rfl⟩ | ⟨hcal, m, rd, dr, l, -, -, hcourse⟩
  · exact ⟨fun _ => State.raise_busLog s .alreadyLoaded, fun hnot => by simp [hcal] at hnot⟩
  refine ⟨fun hval => by simp [hcal] at hval, fun _ => ?_⟩
  rcases hcourse with ⟨c, -, rfl, rfl⟩ | ⟨⟨n, hn, rfl⟩, rfl⟩
  · exact .inl ⟨rfl, rfl⟩
  · exact .inr ⟨rfl, n, hn, rfl⟩

/-- Settles O55: command by command. -/
theorem busTrafficOfEachCommand : Obligations.BusTrafficOfEachCommand := by
  intro i s t h
  refine ⟨?_, ?_, ?_, ?_, ?_⟩
  · rintro (rfl | rfl | rfl | rfl)
    · exact accessor_busLog (r := .tempCenti) (v := s.tempCenti) h
    · exact accessor_busLog (r := .pressPa) (v := s.pressPa) h
    · exact accessor_busLog (r := .humQ10) (v := s.humQ10) h
    · cases h
      rfl
  all_goals rintro rfl
  · exact (exec_readcomp_busLog h).1
  · exact (exec_readcomp_busLog h).2
  · exact (exec_loadcal_busLog h).1
  · exact (exec_loadcal_busLog h).2

end Sys2Proof.Machine
end

section
/-! Proofs of the statements about the arithmetic of 00_scope.md, R11, and of the three compensation functions
(R131, R133, R141, R150, R152). The idea: the functions are read as integers by the lemmas on R130, R140 and
R150; within the stated bounds `Ref.wrap` is the identity, and what is left is linear up to one product. -/

namespace Sys2Proof.Machine

/-! ### The unsigned shift and division (R11) -/

/-- Settles O5: both readings are the quotients of `Nat`. -/
theorem logicalShiftAndDivisionAreFloors : Obligations.LogicalShiftAndDivisionAreFloors := by
  intro u d n
  refine ⟨by rw [lsr32_toNat, Nat.shiftRight_eq_div_pow], fun hd => ⟨u.toNat % d.toNat, ?_, ?_⟩⟩
  · exact Nat.mod_lt _ (Nat.pos_of_ne_zero fun hzero => hd (BitVec.eq_of_toNat_eq hzero))
  · rw [udiv32_toNat, Nat.div_add_mod']

/-- R7: an integer in the range of `s32` is its own wrapped value. -/
theorem wrap_of_range {z : Int} (hlow : -2147483648 ≤ z) (hhigh : z ≤ 2147483647) : Ref.wrap z = z := by
  rw [Ref.wrap]
  omega

/-! ### Temperature (R130, R131, R133) -/

/-- R130, the last line, where it does not wrap. -/
theorem tempCentiOf_toInt_of_range {tf : Word} (hlow : -268435456 < tf.toInt) (hhigh : tf.toInt < 268435456) :
    (tempCentiOf tf).toInt = (5 * tf.toInt + 128) / 256 := by
  rw [tempCentiOf_toInt, wrap_of_range (z := tf.toInt * 5) (by omega) (by omega), wrap_of_range (by omega) (by omega),
    Ref.sar, mul_comm]
  rfl

/-- Settles O34: five times a value below 2^28 fits. -/
theorem temperatureRoundsToNearest : Obligations.TemperatureRoundsToNearest :=
  fun _ => tempCentiOf_toInt_of_range

/-- Settles O37: with the coefficients (0, 0, 1) the square in `var2` wraps between 741455 and 741456. -/
theorem monotonicityFailsForSomeCalibration : Obligations.MonotonicityFailsForSomeCalibration :=
  ⟨741455#20, 741456#20, 0#16, 0#16, 1#16, by decide, by decide⟩

/-- R133: `t_fine` of a raw value with the example's coefficients, on integers without a wrap. -/
def exampleFine (raw : Int) : Int :=
  (raw / 8 - 55008) * 26435 / 2048 + (raw / 16 - 27504) * (raw / 16 - 27504) / 4096 * -1000 / 16384

/-- R133: the square in `var2`, for a 20-bit raw value. -/
theorem exampleSquare_le {raw : Int} (hlow : 0 ≤ raw) (hhigh : raw < 1048576) :
    (raw / 16 - 27504) * (raw / 16 - 27504) ≤ 1446356961 := by
  have hc : -38031 ≤ raw / 16 - 27504 ∧ raw / 16 - 27504 ≤ 38031 := by omega
  nlinarith

/-- R133: nothing wraps in the example. -/
theorem tempFine_example (raw : BitVec 20) :
    (tempFine (zext32 20 raw) 27504#32 26435#32 (wrap32 (-1000))).toInt = exampleFine raw.toNat := by
  have hraw : (zext32 20 raw).toInt = raw.toNat := zext32_toInt (by decide) raw
  have hhigh : (raw.toNat : Int) < 1048576 := by exact_mod_cast raw.isLt
  have hsquare := exampleSquare_le (Int.natCast_nonneg raw.toNat) hhigh
  have hpos := mul_self_nonneg ((raw.toNat : Int) / 16 - 27504)
  have ht1 : (27504#32 : Word).toInt = 27504 := by decide
  have ht2 : (26435#32 : Word).toInt = 26435 := by decide
  have ht3 : (wrap32 (-1000)).toInt = -1000 := by decide
  have htwice : Ref.wrap 55008 = 55008 := by decide
  rw [tempFine_toInt, hraw, ht1, ht2, ht3]
  simp only [Ref.temp, Ref.sar, exampleFine]
  norm_num only
  rw [htwice, wrap_of_range (z := (raw.toNat : Int) / 8 - 55008) (by omega) (by omega),
    wrap_of_range (z := ((raw.toNat : Int) / 8 - 55008) * 26435) (by omega) (by omega),
    wrap_of_range (z := (raw.toNat : Int) / 16 - 27504) (by omega) (by omega),
    wrap_of_range (z := ((raw.toNat : Int) / 16 - 27504) * ((raw.toNat : Int) / 16 - 27504)) (by omega) (by omega),
    wrap_of_range (z := _ / 4096 * -1000) (by omega) (by omega), wrap_of_range (by omega) (by omega)]

/-- R133: one step of `raw / 16` raises `var1` by more than the square can lower `var2`. -/
theorem exampleFine_mono {x y : Int} (hx : 0 ≤ x) (hxy : x ≤ y) (hy : y < 1048576) : exampleFine x ≤ exampleFine y := by
  rw [exampleFine, exampleFine]
  obtain hsame | hmore : x / 16 = y / 16 ∨ x / 16 < y / 16 := by omega
  · rw [hsame]
    exact Int.add_le_add_right (Int.ediv_le_ediv (by decide) (by omega)) _
  · have hsquares : (y / 16 - 27504) * (y / 16 - 27504) - (x / 16 - 27504) * (x / 16 - 27504) ≤
        76062 * (y / 16 - x / 16) := by
      have hsum : x / 16 - 27504 + (y / 16 - 27504) ≤ 76062 := by omega
      nlinarith
    have hx8 : x / 8 ≤ 2 * (x / 16) + 1 := by omega
    have hy8 : 2 * (y / 16) ≤ y / 8 := by omega
    generalize (y / 16 - 27504) * (y / 16 - 27504) = ySquare at hsquares ⊢
    generalize (x / 16 - 27504) * (x / 16 - 27504) = xSquare at hsquares ⊢
    omega

theorem exampleFine_range {x : Int} (hx : 0 ≤ x) (hx' : x < 1048576) :
    -268435456 < exampleFine x ∧ exampleFine x < 268435456 := by
  have hsquare := exampleSquare_le hx hx'
  have hpos := mul_self_nonneg (x / 16 - 27504)
  rw [exampleFine]
  omega

/-- Settles O38: `t_fine` is monotone by `exampleFine_mono`, and so is the rounded quotient that R131 gives. -/
theorem monotonicityHoldsForTheExample : Obligations.MonotonicityHoldsForTheExample := by
  intro a b hab
  have hfine : ∀ raw : BitVec 20,
      (compT (zext32 20 raw) 27504#32 26435#32 (wrap32 (-1000))).2.toInt = exampleFine raw.toNat := tempFine_example
  have hcenti : ∀ raw : BitVec 20,
      (compT (zext32 20 raw) 27504#32 26435#32 (wrap32 (-1000))).1.toInt =
        (5 * exampleFine raw.toNat + 128) / 256 := fun raw => by
    obtain ⟨hlow, hhigh⟩ := exampleFine_range (Int.natCast_nonneg raw.toNat) (by exact_mod_cast raw.isLt)
    rw [← tempFine_example] at hlow hhigh ⊢
    exact tempCentiOf_toInt_of_range hlow hhigh
  have hmono : exampleFine a.toNat ≤ exampleFine b.toNat :=
    exampleFine_mono (Int.natCast_nonneg _) (by exact_mod_cast hab) (by exact_mod_cast b.isLt)
  rw [hcenti, hcenti, hfine, hfine]
  omega

/-! ### Pressure (R141) -/

theorem pressV1b_range (tf p2 p3 : Word) :
    -8192 ≤ (pressV1b tf p2 p3).toInt ∧ (pressV1b tf p2 p3).toInt ≤ 8191 := by
  rw [pressV1b, asr32_toInt]
  generalize add32 _ _ = w
  have hlow : -2147483648 ≤ w.toInt := w.le_toInt
  have hhigh : w.toInt < 2147483648 := BitVec.toInt_lt
  omega

/-- R140, line `den`, with a `v1b` in its range: only the product can wrap. -/
theorem pressDen_toInt_of_zext (tf p2 p3 : Word) (p1 : BitVec 16) :
    (pressDen tf (zext32 16 p1) p2 p3).toInt = Ref.wrap ((32768 + (pressV1b tf p2 p3).toInt) * p1.toNat) / 32768 := by
  obtain ⟨hlow, hhigh⟩ := pressV1b_range tf p2 p3
  have hoffset : (32768#32 : Word).toInt = 32768 := by decide
  rw [pressDen, pressDenOf, asr32_toInt, mul32_toInt_eq_wrap, add32_toInt_eq_wrap, hoffset,
    wrap_of_range (z := 32768 + _) (by omega) (by omega), zext32_toInt (by decide)]
  rfl

/-- R141 on integers: the factor `k` of P1 is in 24576 .. 40959, so the product is below 2^32. -/
theorem wrapped_product_floor {k n : Int} (hlow : 24576 ≤ k) (hhigh : k ≤ 40959) (hn : 0 ≤ n) (hn' : n ≤ 65535) :
    (Ref.wrap (k * n) / 32768 = 0 ↔ n = 0 ∨ (n = 1 ∧ k < 32768)) ∧ (Ref.wrap (k * n) / 32768 < 0 → 52431 ≤ n) := by
  have hge : 24576 * n ≤ k * n := mul_le_mul_of_nonneg_right hlow hn
  have hle : k * n ≤ 40959 * n := mul_le_mul_of_nonneg_right hhigh hn
  have hwrap : 0 ≤ k * n ∧ Ref.wrap (k * n) = k * n ∨ 2147483648 ≤ k * n ∧ Ref.wrap (k * n) < 0 := by
    rw [Ref.wrap]
    omega
  refine ⟨⟨fun hzero => ?_, ?_⟩, fun hneg => by omega⟩
  · obtain rfl | rfl : n = 0 ∨ n = 1 := by omega
    · exact .inl rfl
    · exact .inr ⟨rfl, by omega⟩
  · rintro (rfl | ⟨rfl, hk⟩)
    · rw [mul_zero]
      decide
    · omega

/-- Settles O33: the product of R141, with `k` = 32768 + `v1b`. -/
theorem denominatorIsZeroExactly : Obligations.DenominatorIsZeroExactly := by
  intro tf p2 p3 p1
  obtain ⟨hlow, hhigh⟩ := pressV1b_range tf p2 p3
  have hp1 : (p1.toNat : Int) ≤ 65535 := by exact_mod_cast Nat.le_of_lt_succ p1.isLt
  obtain ⟨hzero, hneg⟩ := wrapped_product_floor (k := 32768 + (pressV1b tf p2 p3).toInt) (by omega) (by omega)
    (Int.natCast_nonneg p1.toNat) hp1
  have hp1zero : p1 = 0#16 ↔ (p1.toNat : Int) = 0 := by rw [← BitVec.toNat_inj]; exact_mod_cast Iff.rfl
  have hp1one : p1 = 1#16 ↔ (p1.toNat : Int) = 1 := by rw [← BitVec.toNat_inj]; exact_mod_cast Iff.rfl
  refine ⟨⟨hlow, hhigh⟩, ?_, fun h => ?_⟩
  · rw [← BitVec.toInt_inj, pressDen_toInt_of_zext, BitVec.toInt_zero, hzero, hp1zero, hp1one]
    omega
  · rw [pressDen_toInt_of_zext] at h
    exact_mod_cast hneg h

/-! ### Humidity (R150, R152) -/

/-- R150, the last three lines. -/
theorem compH_toNat_eq_clamp (adcH tf h1 h2 h3 h4 h5 h6 : Word) :
    ((compH adcH tf h1 h2 h3 h4 h5 h6).toNat : Int) =
      min (max (humPre adcH tf h1 h2 h3 h4 h5 h6).toInt 0) 419430400 / 4096 := by
  rw [compH_toNat, Ref.hum, ← humPre_toInt]
  rfl

/-- Settles O35: the four clauses are the cases of the clamp. -/
theorem humiditySaturates : Obligations.HumiditySaturates := by
  intro adcH tf h1 h2 h3 h4 h5 h6
  have hout := compH_toNat_eq_clamp adcH tf h1 h2 h3 h4 h5 h6
  refine ⟨by omega, fun hneg => BitVec.eq_of_toNat_eq ?_, fun hbig => BitVec.eq_of_toNat_eq ?_, fun hlow hhigh => ?_⟩
  · rw [BitVec.toNat_ofNat]
    omega
  · rw [BitVec.toNat_ofNat]
    omega
  · rw [hout, max_eq_left hlow, min_eq_left hhigh]

/-- R152: the bits in which the two extensions differ are shifted out. -/
theorem shl32_setWidth_eq_signExtend (h : BitVec 12) : shl32 (h.setWidth 32) 20 = shl32 (h.signExtend 32) 20 := by
  ext i hi
  have hsmall : ¬ i < 20 → i - 20 < 12 := by omega
  by_cases hlow : i < 20
  · simp [shl32, hlow]
  · simp [shl32, hlow, BitVec.getElem_signExtend, hsmall hlow]

/-- Settles O36: `COMPH` reads H4 only through its left shift by 20; the two values for H5 evaluate. -/
theorem h4SignIsUnobservable : Obligations.H4SignIsUnobservable := by
  refine ⟨fun h adcH tf h1 h2 h3 h5 h6 => ?_, by decide, by decide⟩
  simp only [compH, humPre, humX, shl32_setWidth_eq_signExtend]

/-! ### The operands of the three functions (R130, R140, R150) -/

/-- Settles O39: each function is applied to the normalised reads of its own coefficients. -/
theorem compensationReadsItsOwnCoefficients : Obligations.CompensationReadsItsOwnCoefficients := by
  refine fun c d b => ⟨fun ht1 ht2 ht3 => ?_, fun raw tf hp1 hp2 hp3 hp4 hp5 hp6 hp7 hp8 hp9 => ?_,
    fun raw tf hh1 hh2 hh3 hh4 hh5 hh6 => ?_⟩
  · simp only [cycleT, Coeffs.get, ht1, ht2, ht3]
  · simp only [compPOf, Coeffs.get, hp1, hp2, hp3, hp4, hp5, hp6, hp7, hp8, hp9]
  · simp only [compHOf, Coeffs.get, hh1, hh2, hh3, hh4, hh5, hh6]

end Sys2Proof.Machine
end
